-- ==== Sys2Proof/Word.lean ====
section
/-!
DEFINITION. The plain words and the fixed names of the FH4200 (00_scope.md 2, 6): bytes, 16-bit fields, addresses,
the two upstream ports, the four segments, the two banks, and one value per port, segment or bank.
-/

namespace Sys2Proof

/-- A byte on a two-wire bus, in a frame or in an image. -/
abbrev Byte := BitVec 8

/-- A 16-bit field: offsets, tags, the refill tick, CRC-16 values. -/
abbrev Half := BitVec 16

/-- A 32-bit counter (R120). -/
abbrev Wide := BitVec 32

/-- An upstream-visible or target address, 7-bit values in its low seven bits (00_scope.md 6.1). -/
abbrev Addr := BitVec 10

/-- The upstream ports UP0 and UP1. -/
inductive Port where
  | up0 | up1
deriving DecidableEq, Repr

/-- The downstream segments SEG0 to SEG3. -/
inductive SegId where
  | seg0 | seg1 | seg2 | seg3
deriving DecidableEq, Repr

/-- The banks A and B (R1). -/
inductive BankId where
  | a | b
deriving DecidableEq, Repr

/-- The index of a filter entry, 0 to 127 (R1). -/
abbrev EntryIdx := Fin 128

/-- The index of a window, 0 to 255 (R1). -/
abbrev WindowIdx := Fin 256

/-- The other upstream port. -/
def Port.other : Port → Port
  | .up0 => .up1
  | .up1 => .up0

/-- The other bank. -/
def BankId.other : BankId → BankId
  | .a => .b
  | .b => .a

/-- One value for each upstream port. -/
structure PerPort (α : Type) where
  up0 : α
  up1 : α
deriving DecidableEq, Repr

/-- One value for each segment. -/
structure PerSeg (α : Type) where
  seg0 : α
  seg1 : α
  seg2 : α
  seg3 : α
deriving DecidableEq, Repr

/-- One value for each bank. -/
structure PerBank (α : Type) where
  a : α
  b : α
deriving DecidableEq, Repr

variable {α : Type}

def PerPort.get (t : PerPort α) : Port → α
  | .up0 => t.up0
  | .up1 => t.up1

def PerPort.set (t : PerPort α) (p : Port) (x : α) : PerPort α :=
  match p with
  | .up0 => { t with up0 := x }
  | .up1 => { t with up1 := x }

/-- The same value for both ports. -/
def PerPort.both (x : α) : PerPort α := ⟨x, x⟩

def PerSeg.get (t : PerSeg α) : SegId → α
  | .seg0 => t.seg0
  | .seg1 => t.seg1
  | .seg2 => t.seg2
  | .seg3 => t.seg3

def PerSeg.set (t : PerSeg α) (g : SegId) (x : α) : PerSeg α :=
  match g with
  | .seg0 => { t with seg0 := x }
  | .seg1 => { t with seg1 := x }
  | .seg2 => { t with seg2 := x }
  | .seg3 => { t with seg3 := x }

/-- The same value for all four segments. -/
def PerSeg.all (x : α) : PerSeg α := ⟨x, x, x, x⟩

/-- One value for each segment, by a rule. -/
def PerSeg.of (f : SegId → α) : PerSeg α := ⟨f .seg0, f .seg1, f .seg2, f .seg3⟩

def PerBank.get (t : PerBank α) : BankId → α
  | .a => t.a
  | .b => t.b

def PerBank.set (t : PerBank α) (k : BankId) (x : α) : PerBank α :=
  match k with
  | .a => { t with a := x }
  | .b => { t with b := x }

/-- The same value for both banks. -/
def PerBank.both (x : α) : PerBank α := ⟨x, x⟩

/-- Item `i` of a table of fixed length. -/
def tableGet {n : Nat} (v : Vector α n) (i : Fin n) : α := v[i.val]

/-- A table of fixed length with item `i` replaced. -/
def tableSet {n : Nat} (v : Vector α n) (i : Fin n) (x : α) : Vector α n := v.set i.val x

/-- A table of fixed length, item by item. -/
def tableOf (n : Nat) (f : Fin n → α) : Vector α n := Vector.ofFn f

end Sys2Proof
end

