-- ==== Sys2Proof/Syntax.lean ====
section
/-!
DEFINITION. The commands of the FH4200: one constructor per row of spec/opcode_table.json, in the table's order, with
the operands the row's rule gives it.
-/

namespace Sys2Proof

/-- A ninth bit: low is acknowledge, high is not-acknowledge (R24). -/
inductive Ack where
  | ack | nack
deriving DecidableEq, Repr

/-- The level of a line (R24). -/
inductive Level where
  | low | high
deriving DecidableEq, Repr

/-- The direction of an SCL edge (R48 treats both alike). -/
inductive Edge where
  | rising | falling
deriving DecidableEq, Repr

/-- The four conditions of the MGMTEN strap input (R182). -/
inductive MgmtenPin where
  | tiedLow | pulledLow | pulledHigh | tiedHigh
deriving DecidableEq, Repr

/-- The strap inputs as they stand when a reset ends (R182). -/
structure StrapPins where
  maddr1 : Level
  maddr0 : Level
  defpol : Level
  mgmten : MgmtenPin
deriving DecidableEq, Repr

/-- How the STOP driven at a release ended (R100). -/
inductive StopResult where
  | formed | sclLow | sdaLow
deriving DecidableEq, Repr

/-- How the STOP of the third close step ended (R104). SCL held low is no end: the hold timer governs it. -/
inductive CloseStopResult where
  | formed | sdaLow
deriving DecidableEq, Repr

/-- A line condition that the Segment Controller did not form (R106). `stopInPulse` is a rise of SDA during the
high phase of a recovery pulse, which R103 tells apart from every other STOP. -/
inductive ForeignKind where
  | start | stop | stopInPulse | clockFall
deriving DecidableEq, Repr

/-- What showed the loss of an OWNED segment (R107). -/
inductive LossCause where
  | sentOneSampledLow | foreignStart | foreignStop
deriving DecidableEq, Repr

/-- The commands, one per row of the table. -/
inductive Instr where
  | start (p : Port)
  | repeatedStart (p : Port)
  | stop (p : Port)
  | addressByte (p : Port) (b : Byte)
  | dataByte (p : Port) (b : Byte)
  | upstreamReadAck (p : Port)
  | upstreamReadNack (p : Port)
  | targetAddressAnswer (g : SegId) (a : Ack)
  | targetWriteAnswer (g : SegId) (a : Ack)
  | readByteReceived (g : SegId) (b : Byte)
  | waitTimerExpiry (p : Port)
  | stretchTimerExpiry (p : Port)
  | abandonTimerExpiry (p : Port)
  | holdTimerExpiry (g : SegId)
  | refillTick
  | idleTimerExpiry
  | closeSclReleased (g : SegId) (sda : Level)
  | recoveryPulse (g : SegId) (sda : Level)
  | closeStopEnd (g : SegId) (r : CloseStopResult)
  | releaseStopResult (g : SegId) (r : StopResult)
  | foreignCondition (g : SegId) (k : ForeignKind)
  | loss (g : SegId) (c : LossCause)
  | validationCompletion
  | reloadCompletion
  | resetNLow
  | resetNHigh (pins : StrapPins)
  | powerOnReset
  | powerOnResetEnd (pins : StrapPins)
  | sessionOpen (p : Port)
  | sessionClose (p : Port)
  | statusRead (p : Port) (clear : Byte)
  | identRead (p : Port)
  | settingsRead (p : Port)
  | violationRead (p : Port)
  | headerRead (p : Port) (select : Byte)
  | entryRead (p : Port) (select : Byte) (index : Byte)
  | windowRead (p : Port) (select : Byte) (index : Byte)
  | counterRead (p : Port) (kind : Byte) (index : Byte)
  | segmentStatus (p : Port) (segment : Byte)
  | headerWrite (p : Port) (image : List Byte)
  | entryWrite (p : Port) (index : Byte) (image : List Byte)
  | entryClear (p : Port) (index : Byte)
  | windowWrite (p : Port) (first : Byte) (images : List Byte)
  | shadowReload (p : Port)
  | commit (p : Port) (crc : Half)
  | lockdown (p : Port)
  | violationAck (p : Port) (n : Byte)
  | countersClear (p : Port)
  | settingsWrite (p : Port) (record : List Byte)
  | segmentDisable (p : Port) (segment : Byte)
  | segmentEnable (p : Port) (segment : Byte)
  | segmentRelease (p : Port) (segment : Byte)
  | abortAll (p : Port)
  | upstreamSclEdge (p : Port) (e : Edge)
deriving DecidableEq, Repr

end Sys2Proof
end

