-- ==== Sys2Proof/WellFormed.lean ====
section
/-!
DEFINITION. Well-formed commands: the images and records a command carries have the lengths the catalogue of R163 and
09_the_management_channel.md 9.7 gives. Every other operand is well formed at every value of its type.
-/

namespace Sys2Proof

/-- The checks on one command. -/
def Instr.wellFormed : Instr → Bool
  | .headerWrite _ image => image.length == 8
  | .entryWrite _ _ image => image.length == 16
  | .windowWrite _ _ images => [4, 8, 12, 16, 20, 24, 28].contains images.length
  | .settingsWrite _ record => record.length == 16
  | .start _ | .repeatedStart _ | .stop _ | .addressByte _ _ | .dataByte _ _ | .upstreamReadAck _
  | .upstreamReadNack _ | .targetAddressAnswer _ _ | .targetWriteAnswer _ _ | .readByteReceived _ _
  | .waitTimerExpiry _ | .stretchTimerExpiry _ | .abandonTimerExpiry _ | .holdTimerExpiry _ | .refillTick
  | .idleTimerExpiry | .closeSclReleased _ _ | .recoveryPulse _ _ | .closeStopEnd _ _ | .releaseStopResult _ _
  | .foreignCondition _ _ | .loss _ _ | .validationCompletion | .reloadCompletion | .resetNLow | .resetNHigh _
  | .powerOnReset | .powerOnResetEnd _ | .sessionOpen _ | .sessionClose _ | .statusRead _ _ | .identRead _
  | .settingsRead _ | .violationRead _ | .headerRead _ _ | .entryRead _ _ _ | .windowRead _ _ _
  | .counterRead _ _ _ | .segmentStatus _ _ | .entryClear _ _ | .shadowReload _ | .commit _ _ | .lockdown _
  | .violationAck _ _ | .countersClear _ | .segmentDisable _ _ | .segmentEnable _ _ | .segmentRelease _ _
  | .abortAll _ | .upstreamSclEdge _ _ => true

end Sys2Proof
end

