-- ==== Sys2Proof/Config.lean ====
section
/-!
DEFINITION. What the device fixes (R169, R187), the strap inputs of the model's reset state, and the one free value.
-/

namespace Sys2Proof.Config

/-- The vendor code of IDENT_READ (R169). -/
def vendorCode : Half := 0x4B4A#16

/-- The device code of IDENT_READ (R169). -/
def deviceCode : Half := 0x4200#16

/-- The revision of IDENT_READ (R169). -/
def revision : Byte := 0x01#8

/-- The byte every read of a response frame returns after its CRC byte (R165). -/
def slotFiller : Byte := 0xFF#8

/-- The capacity of the Violation Queue (R148). -/
def queueCapacity : Nat := 32

/-- DESIGN CHOICE (log entry 1, unsafe): the strap inputs that the end of the power-on reset before
`State.reset` latched. The board decides them; RESET_N_HIGH and POWER_ON_RESET_END carry any others. -/
def resetPins : StrapPins := { maddr1 := .low, maddr0 := .low, defpol := .low, mgmten := .tiedHigh }

/-- Free value (log entry 10, safe): which of two Session Engines' records is appended first when one event makes a
record in both and R151 gives no order. `true` is the first in the model's own reading order. Nothing is known of it. -/
opaque appendOrder : Nat → Bool

end Sys2Proof.Config
end

