-- ==== Sys2Proof/Machine/Types.lean ====
section
/-!
DEFINITION. The records of state of each block of the FH4200 (00_scope.md 3), as plain data.
-/

namespace Sys2Proof.Machine

/-! ## Banks (01_the_filter_table.md) -/

/-- The header decision for an address that no entry claims (R3). -/
inductive DefaultAction where
  | deny | forward
deriving DecidableEq, Repr

/-- The header decision for a write to 0x00 (R3). -/
inductive GeneralCallAction where
  | block | forward
deriving DecidableEq, Repr

/-- The bank header (R3). -/
structure Header where
  defaultAction : DefaultAction
  defaultSegment : SegId
  generalCallAction : GeneralCallAction
  generalCallSegment : SegId
  refillTick : Half
  tag : Half
deriving DecidableEq, Repr

inductive AddrKind where
  | seven | ten
deriving DecidableEq, Repr

/-- What an entry grants a port (R6). -/
inductive Access where
  | none | read | write | readWrite
deriving DecidableEq, Repr

/-- The sub-address width in bytes (R7). -/
inductive Width where
  | w0 | w1 | w2
deriving DecidableEq, Repr

inductive WindowMode where
  | atStart | everyByte
deriving DecidableEq, Repr

inductive Action where
  | refuse | logOnly
deriving DecidableEq, Repr

/-- A window list that is present: first window index and count (R8). -/
structure WindowList where
  first : Byte
  count : Byte
deriving DecidableEq, Repr

/-- A filter entry (R4 to R11); an absent optional field is `none`. The refill byte is held as written (R10). -/
structure Entry where
  valid : Bool
  kind : AddrKind
  matchAddr : Addr
  target : Option Addr
  segment : SegId
  access : PerPort Access
  width : Width
  mode : WindowMode
  writeList : Option WindowList
  readList : Option WindowList
  writeLimit : Option Byte
  readLimit : Option Byte
  creditLimit : Option Byte
  creditRefill : Byte
  action : Action
deriving DecidableEq, Repr

/-- A window: low and high offset (R12). -/
structure Window where
  low : Half
  high : Half
deriving DecidableEq, Repr

/-- A bank: header, 128 entries, 256 windows (R1). -/
structure Bank where
  header : Header
  entries : Vector Entry 128
  windows : Vector Window 256
deriving DecidableEq, Repr

/-! ## Violation records (08_the_violation_queue_and_alerts.md) -/

inductive Direction where
  | write | read
deriving DecidableEq, Repr

/-- The reasons of a violation record (R147). -/
inductive Reason where
  | noEntry | portDenied | direction | noCredit | writeWindow | readWindow | noPointer | writeLength
  | readLength | generalCall | grantTimeout | segmentUnavailable | targetTimeout | segmentLost | abandoned | aborted
deriving DecidableEq, Repr

inductive RecordOutcome where
  | refused | cut | passed
deriving DecidableEq, Repr

/-- A violation record (R146). The sequence number is written at storage (R149). -/
structure Violation where
  sequence : Half
  port : Port
  reason : Reason
  outcome : RecordOutcome
  direction : Direction
  kind : AddrKind
  address : Addr
  entry : Option EntryIdx
  segment : Option SegId
  offset : Option Half
  position : Byte
  tag : Half
deriving DecidableEq, Repr

/-- The Violation Queue (R148), head first. -/
structure ViolationQueue where
  records : List Violation
  nextSequence : Half
  overflow : Half
deriving DecidableEq, Repr

/-- The latched flags of one port (R154). -/
structure AlertFlags where
  segmentEvent : Bool
  commitDone : Bool
  overflow : Bool
deriving DecidableEq, Repr

/-! ## Sessions (02_sessions_and_the_relay.md) -/

/-- The session state machine (R25). -/
inductive SessionState where
  | idle | address | grantWait | connect | write | read | mgmt | discard | fill
deriving DecidableEq, Repr

/-- The decision of a part (R25). -/
inductive Decision where
  | entry (i : EntryIdx)
  | defaultForward
  | generalCallForward
  | management
  | refused (r : Reason)
deriving DecidableEq, Repr

/-- The current part (R25, R26, R66, R71). -/
structure Part where
  decision : Option Decision
  direction : Direction
  count : Byte
  held : Option Byte
  sub : List Byte
  recorded : Bool
  length : Nat
  kind : AddrKind
  address : Addr
  segment : Option SegId
  target : Addr
deriving DecidableEq, Repr

/-- The remembered 10-bit address with its segment (R40). -/
structure Remembered where
  address : Addr
  segment : SegId
deriving DecidableEq, Repr

/-- The remembered pointer (R76). -/
structure Pointer where
  entry : EntryIdx
  offset : Half
deriving DecidableEq, Repr

/-- The session record of one port and its three timers; a timer holds the limit it runs to, in ms. -/
structure Session where
  state : SessionState
  bank : Option BankId
  part : Part
  owned : Option SegId
  remembered : Option Remembered
  pointer : Option Pointer
  stretch : Option Byte
  wait : Option Byte
  abandon : Option Byte
deriving DecidableEq, Repr

/-- The line phase of an upstream port: nothing followed, receiving bytes, sending bytes, or a read that the upstream
controller has ended by a NACK, with SDA left high (R24, R35, R44, R45). -/
inductive LinePhase where
  | quiet | receive | send | ended
deriving DecidableEq, Repr

/-- An Upstream Port Interface: line phase, hold flag, byte being shifted out, ninth bit driven last (00_scope.md 3). -/
structure Upi where
  phase : LinePhase
  hold : Bool
  shift : Option Byte
  ninth : Option Ack
deriving DecidableEq, Repr

/-! ## Segments (05_downstream_segments.md) -/

inductive SegState where
  | idle | owned | closing | quarantined | disabled
deriving DecidableEq, Repr

inductive QuarantineReason where
  | none | foreign | clockHeld | dataHeld
deriving DecidableEq, Repr

inductive Speed where
  | khz100 | khz400 | khz1000
deriving DecidableEq, Repr

inductive CloseStep where
  | one | two | three
deriving DecidableEq, Repr

/-- The act a Segment Controller has in progress (R97, R100): an address byte after a START or a repeated START with
the address bytes to come, a data byte with those to come, receiving a byte (`cut`: byte 0 of a read cut at byte 0, R36),
or the STOP of a release. -/
inductive SegAct where
  | address (restart : Bool) (byte : Byte) (rest : List Byte)
  | send (byte : Byte) (rest : List Byte)
  | receive (cut : Bool)
  | releaseStop
deriving DecidableEq, Repr

/-- What reaches a Segment Controller while it drives the STOP of a release and is taken once that STOP has ended: a
port's request, or a disable (R98, R100, R109; log entries 5 and 6). -/
inductive Deferred where
  | request (port : Port)
  | disable
deriving DecidableEq, Repr

/-- A Segment Controller (R94); `hold` is its hold timer with the limit it runs to, `ninthOwed` says that the ninth bit
of the last byte received is still to be clocked, `ninthSent` is the last one clocked (R34 to R36), `deferred` is what
waits for the STOP of a release to end, in its order. -/
structure Segment where
  state : SegState
  owner : Option Port
  waiters : List Port
  deferred : List Deferred
  reason : QuarantineReason
  disablePending : Bool
  speed : Speed
  holdLimit : Byte
  step : CloseStep
  pulses : Nat
  hold : Option Byte
  act : Option SegAct
  ninthOwed : Bool
  ninthSent : Option Ack
deriving DecidableEq, Repr

/-- The counters of one segment (R122). -/
structure SegCounters where
  grants : Wide
  recoveries : Half
  quarantines : Half
deriving DecidableEq, Repr

/-! ## Accounting (06_credit_buckets_and_counters.md) -/

/-- What the Accounting Unit keeps for one entry of one bank: its bucket, if it has one, and its two counters. -/
structure EntryAccount where
  bucket : Option Nat
  hits : Wide
  violations : Half
deriving DecidableEq, Repr

/-- The counters of one upstream port (R123). -/
structure PortCounters where
  crcErrors : Half
  abandoned : Half
deriving DecidableEq, Repr

/-! ## Bank staging (07_bank_staging_and_commit.md) -/

inductive ShadowState where
  | editable | validating | draining | reloading | locked
deriving DecidableEq, Repr

/-- The commit in progress (R126, R135). -/
structure CommitJob where
  port : Port
  expected : Half
  running : Half
deriving DecidableEq, Repr

/-- The Bank Controller (R126). -/
structure BankController where
  active : BankId
  shadow : ShadowState
  holders : PerBank Nat
  dirty : Bool
  locked : Bool
  commit : Option CommitJob
deriving DecidableEq, Repr

/-- The reasons a commit fails (R17), with the index reported. -/
inductive CommitReason where
  | checksum | reservedAddress | kindMismatch | widthList | listBounds | windowValue | listOrder | refillMissing
  | duplicate
deriving DecidableEq, Repr

structure CommitFailure where
  reason : CommitReason
  index : Half
deriving DecidableEq, Repr

/-! ## Management (09_the_management_channel.md, 10_settings_straps_and_start_up.md) -/

/-- The status values of a response slot (R164). -/
inductive Status where
  | ok | inProgress | empty | badCrc | badLength | badCommand | range | noSession | owned | busy | locked
  | commitFailed | state
deriving DecidableEq, Repr

/-- A response slot (R164). -/
structure Slot where
  status : Status
  payload : List Byte
deriving DecidableEq, Repr

inductive ParserState where
  | awaitCommand | awaitLength | awaitArguments | awaitCrc | complete | overlength | refused
deriving DecidableEq, Repr

/-- A frame parser (R160). -/
structure Parser where
  state : ParserState
  command : Byte
  length : Byte
  args : List Byte
  received : Byte
  running : Byte
deriving DecidableEq, Repr

/-- A long command in progress (R168): what it does and what it still waits for. -/
inductive LongCommand where
  | commit
  | shadowReload
  | segmentDisable (g : SegId)
  | segmentEnable (g : SegId)
  | segmentRelease (g : SegId)
  | abortAll (parts : Nat) (waiting : List SegId)
deriving DecidableEq, Repr

/-- The conditions a port's alert mask selects (R157). -/
structure AlertMask where
  queue : Bool
  segmentEvent : Bool
  commitDone : Bool
  overflow : Bool
deriving DecidableEq, Repr

/-- The settings of one upstream port (R179), limits in ms. -/
structure PortSettings where
  stretch : Byte
  abandon : Byte
  wait : Byte
  mask : AlertMask
deriving DecidableEq, Repr

/-- The Settings record (R179). -/
structure Settings where
  port : PerPort PortSettings
  filler : Byte
  holdLimit : Byte
  watermark : Byte
  idleTimeout : Byte
  speed : PerSeg Speed
deriving DecidableEq, Repr

/-- The strap latch (R182). -/
structure Straps where
  maddr : BitVec 2
  defpol : Bool
  mgmten : PerPort Bool
deriving DecidableEq, Repr

/-- Whether the device is in service or in a reset, and of which kind (R183). `powerOn passed`: the power-on interval
has passed and the reset waits for RESET_N high. -/
inductive ResetPhase where
  | inService
  | resetN
  | powerOn (passed : Bool)
deriving DecidableEq, Repr

end Sys2Proof.Machine
end

