-- ==== Sys2Proof/Machine/Bits.lean ====
section
/-!
DEFINITION. Byte order, bit fields, saturating counts and the two checksums (R120, R187; 00_scope.md 6.2).
-/

namespace Sys2Proof.Machine

/-- A 16-bit field, most significant byte first. -/
def be16 (x : Half) : List Byte := [x.extractLsb' 8 8, x.extractLsb' 0 8]

/-- A 32-bit field, most significant byte first. -/
def be32 (x : Wide) : List Byte :=
  [x.extractLsb' 24 8, x.extractLsb' 16 8, x.extractLsb' 8 8, x.extractLsb' 0 8]

/-- The 16-bit field of two bytes, the first most significant. -/
def halfOf (hi lo : Byte) : Half := hi ++ lo

/-- A count that stops at its maximum (R120). -/
def satInc {w : Nat} (c : BitVec w) : BitVec w := if c = BitVec.allOnes w then c else c + 1#w

/-- One shift of the frame CRC-8 (R187). -/
def crc8Shift (c : Byte) : Byte := if c.msb then (c <<< 1) ^^^ 0x31#8 else c <<< 1

/-- One byte folded into the frame CRC-8 (R187). -/
def crc8Byte (c b : Byte) : Byte := Nat.repeat crc8Shift 8 (c ^^^ b)

/-- The frame CRC-8 over some bytes from a running value (R187). -/
def crc8 (c : Byte) (bytes : List Byte) : Byte := bytes.foldl crc8Byte c

/-- The initial value of the frame CRC-8 (R187). -/
def crc8Init : Byte := 0xFF#8

/-- One shift of the bank CRC-16 (R187). -/
def crc16Shift (c : Half) : Half := if c.msb then (c <<< 1) ^^^ 0x1021#16 else c <<< 1

/-- One byte folded into the bank CRC-16 (R187). -/
def crc16Byte (c : Half) (b : Byte) : Half := Nat.repeat crc16Shift 8 (c ^^^ (b ++ 0#8))

/-- The bank CRC-16 over some bytes from a running value (R187). -/
def crc16 (c : Half) (bytes : List Byte) : Half := bytes.foldl crc16Byte c

/-- The initial value of the bank CRC-16 (R135, R187). -/
def crc16Init : Half := 0xFFFF#16

/-- A 7-bit address in the 10-bit type. -/
def addr7 (a : BitVec 7) : Addr := 0#3 ++ a

/-- A 10-bit address from its two high bits and its second byte (00_scope.md 6.1). -/
def addr10 (hi : BitVec 2) (lo : Byte) : Addr := hi ++ lo

/-- The seven address bits of an address byte. -/
def addressBits (b : Byte) : BitVec 7 := b.extractLsb' 1 7

/-- The R/W bit of an address byte: 1 reads, 0 writes. -/
def byteDirection (b : Byte) : Direction := if b.getLsbD 0 then .read else .write

/-- The first byte of a 10-bit address starts with 11110 (R29). -/
def isTenBitFirst (b : Byte) : Bool := b.extractLsb' 3 5 == 0b11110#5

/-- The two high address bits of a first byte 11110xx. -/
def highBits (b : Byte) : BitVec 2 := b.extractLsb' 1 2

/-- The two high bits of a 10-bit address. -/
def addrHigh (a : Addr) : BitVec 2 := a.extractLsb' 8 2

/-- The eight low bits of a 10-bit address. -/
def addrLow (a : Addr) : Byte := a.extractLsb' 0 8

/-- The R/W bit of a direction. -/
def rwBit : Direction → BitVec 1
  | .write => 0#1
  | .read => 1#1

/-- The byte that carries a 7-bit address and R/W (00_scope.md 6.1). -/
def addressByte7 (a : Addr) (d : Direction) : Byte := (a.extractLsb' 0 7 ++ rwBit d : BitVec (7 + 1))

/-- The first byte 11110xx and R/W of a 10-bit address (00_scope.md 6.1). -/
def addressByte10 (a : Addr) (d : Direction) : Byte := (0b11110#5 ++ addrHigh a ++ rwBit d : BitVec (5 + 2 + 1))

end Sys2Proof.Machine
end

