-- ==== Sys2Proof/Machine/ResetValues.lean ====
section
/-!
DEFINITION. The values state takes at the end of a reset (R23, R25, R94, R126, R148, R160, R164, R179, R182, R185).
-/

namespace Sys2Proof.Machine

/-- The cleared entry (R16): its image is sixteen zero bytes. -/
def clearedEntry : Entry :=
  { valid := false, kind := .seven, matchAddr := 0, target := none, segment := .seg0, access := .both .none,
    width := .w0, mode := .atStart, writeList := none, readList := none, writeLimit := none, readLimit := none,
    creditLimit := none, creditRefill := 0, action := .refuse }

/-- The header of the reset contents (R23), by the DEFPOL strap. -/
def resetHeader (defpol : Bool) : Header :=
  { defaultAction := if defpol then .forward else .deny, defaultSegment := .seg0, generalCallAction := .block,
    generalCallSegment := .seg0, refillTick := 1000#16, tag := 0#16 }

/-- The reset contents of a bank (R23). -/
def resetBank (defpol : Bool) : Bank :=
  { header := resetHeader defpol, entries := Vector.replicate 128 clearedEntry,
    windows := Vector.replicate 256 ⟨0, 0⟩ }

/-- The strap latch loaded from the strap inputs (R182). -/
def latchStraps (pins : StrapPins) : Straps :=
  { maddr := (if pins.maddr1 = .high then 1#1 else 0#1) ++ (if pins.maddr0 = .high then 1#1 else 0#1),
    defpol := pins.defpol = .high,
    mgmten :=
      match pins.mgmten with
      | .tiedLow => ⟨false, false⟩
      | .pulledLow => ⟨true, false⟩
      | .pulledHigh => ⟨false, true⟩
      | .tiedHigh => ⟨true, true⟩ }

/-- The default alert mask: QUEUE and SEGMENT_EVENT (R179). -/
def defaultMask : AlertMask := { queue := true, segmentEvent := true, commitDone := false, overflow := false }

/-- The default settings of a port (R179). -/
def defaultPortSettings : PortSettings := { stretch := 10, abandon := 30, wait := 5, mask := defaultMask }

/-- The default Settings record (R179). -/
def defaultSettings : Settings :=
  { port := .both defaultPortSettings, filler := 0xFF, holdLimit := 25, watermark := 1, idleTimeout := 10,
    speed := .all .khz100 }

/-- No part: the values R25 and R71 give the current part after reset. -/
def noPart : Part :=
  { decision := none, direction := .write, count := 0, held := none, sub := [], recorded := false, length := 0,
    kind := .seven, address := 0, segment := none, target := 0 }

/-- A session record in IDLE (R25), its timers stopped. -/
def idleSession : Session :=
  { state := .idle, bank := none, part := noPart, owned := none, remembered := none, pointer := none, stretch := none,
    wait := none, abandon := none }

/-- An Upstream Port Interface that drives nothing (R27, R51). -/
def quietUpi : Upi := { phase := .quiet, hold := false, shift := none, ninth := none }

/-- A segment at the end of a reset (R94, R115): CLOSING, its close procedure at its first step. -/
def resetSegment (speed : Speed) (holdLimit : Byte) : Segment :=
  { state := .closing, owner := none, waiters := [], deferred := [], reason := .none, disablePending := false, speed := speed,
    holdLimit := holdLimit, step := .one, pulses := 0, hold := some holdLimit, act := none, ninthOwed := false,
    ninthSent := none }

def zeroSegCounters : SegCounters := { grants := 0, recoveries := 0, quarantines := 0 }

def zeroPortCounters : PortCounters := { crcErrors := 0, abandoned := 0 }

/-- The account of an entry without a bucket, its counters zero. -/
def zeroAccount : EntryAccount := { bucket := none, hits := 0, violations := 0 }

/-- The bucket an entry has when its bank becomes active: at its limit, for a valid entry with one (R116, R117). -/
def freshBucket (e : Entry) : Option Nat := if e.valid then e.creditLimit.map (·.toNat) else none

/-- The accounts of a bank that becomes active: buckets full, counters zero (R117, R121). -/
def freshAccounts (k : Bank) : Vector EntryAccount 128 :=
  tableOf 128 fun i => { zeroAccount with bucket := freshBucket (tableGet k.entries i) }

/-- The accounts of a bank no session can reach (R125). -/
def zeroAccounts : Vector EntryAccount 128 := Vector.replicate 128 zeroAccount

/-- The Bank Controller after a reset that keeps no bank (R126). -/
def resetController : BankController :=
  { active := .a, shadow := .editable, holders := .both 0, dirty := false, locked := false, commit := none }

def emptyQueue : ViolationQueue := { records := [], nextSequence := 0, overflow := 0 }

def noFlags : AlertFlags := { segmentEvent := false, commitDone := false, overflow := false }

def emptySlot : Slot := { status := .empty, payload := [] }

/-- A frame parser in AWAIT_COMMAND with nothing received (R161). Its stored bytes are 0 and its running CRC is the 0xFF that
the next write part's address byte is folded into (R160); no rule gives either a value here (log entry 22). -/
def freshParser : Parser :=
  { state := .awaitCommand, command := 0, length := 0, args := [], received := 0, running := crc8Init }

end Sys2Proof.Machine
end

