-- ==== Sys2Proof/Machine/State.lean ====
section
/-!
DEFINITION. The state of the FH4200 as plain data, the reasons a step could stop, and the state after a power-on reset.
-/

namespace Sys2Proof.Machine

/-- No fault: the spec names no stop of the device. A refused command is an error status (R164), a refused part a NACK
and a record (R29), a segment out of use QUARANTINED (R108); each is a next state. Nothing raises a fault. -/
inductive Fault
deriving DecidableEq, Repr

inductive Refusal where
  /-- Raised by an arm of `exec` whose command has no meaning yet; safe. No arm is left in that case. -/
  | notModelled (mnemonic : String)
deriving DecidableEq, Repr

/-- Everything the spec gives the block (INVENTORY.md, State), the queue of waiting commands, and the counter that
indexes the free value of Config. -/
@[ext]
structure State where
  pending : List Instr
  choice : Nat
  phase : ResetPhase
  resetPin : Level
  straps : Straps
  settings : Settings
  upi : PerPort Upi
  session : PerPort Session
  seg : PerSeg Segment
  segCounters : PerSeg SegCounters
  bank : PerBank Bank
  bc : BankController
  accounts : PerBank (Vector EntryAccount 128)
  portCounters : PerPort PortCounters
  refill : Option Half
  queue : ViolationQueue
  flags : PerPort AlertFlags
  alert : PerPort Level
  parser : PerPort Parser
  slot : PerPort Slot
  readback : PerPort (List Byte)
  job : PerPort (Option LongCommand)
  holder : Option Port
  idle : Option Byte
deriving DecidableEq, Repr

/-- The machine at the end of a power-on reset (R185 and the table of chapter 10.5), its straps latched from
`Config.resetPins` (log entry 1), no command waiting. -/
def State.reset : State :=
  { pending := [], choice := 0, phase := .inService, resetPin := .high, straps := latchStraps Config.resetPins,
    settings := defaultSettings, upi := .both quietUpi, session := .both idleSession,
    seg := .all (resetSegment .khz100 25), segCounters := .all zeroSegCounters,
    bank := .both (resetBank (latchStraps Config.resetPins).defpol), bc := resetController,
    accounts := ⟨freshAccounts (resetBank (latchStraps Config.resetPins).defpol), zeroAccounts⟩,
    portCounters := .both zeroPortCounters, refill := some 1000#16, queue := emptyQueue, flags := .both noFlags,
    alert := .both .high, parser := .both freshParser, slot := .both emptySlot, readback := .both [], job := .both none,
    holder := none, idle := none }

end Sys2Proof.Machine
end

