-- ==== Sys2Proof/Machine/Ops.lean ====
section
/-!
DEFINITION. The named operations over the state: one updater per component, the upstream hold and its timers
(R24, R47, R48), bank capture and release (R28, R128), and the counters of the Accounting Unit (R120 to R123).
-/

namespace Sys2Proof.Machine

/-! ## Updaters -/

def State.updUpi (s : State) (p : Port) (f : Upi → Upi) : State := { s with upi := s.upi.set p (f (s.upi.get p)) }

def State.updSession (s : State) (p : Port) (f : Session → Session) : State :=
  { s with session := s.session.set p (f (s.session.get p)) }

def State.updSeg (s : State) (g : SegId) (f : Segment → Segment) : State :=
  { s with seg := s.seg.set g (f (s.seg.get g)) }

def State.updSegCounters (s : State) (g : SegId) (f : SegCounters → SegCounters) : State :=
  { s with segCounters := s.segCounters.set g (f (s.segCounters.get g)) }

def State.updBank (s : State) (k : BankId) (f : Bank → Bank) : State :=
  { s with bank := s.bank.set k (f (s.bank.get k)) }

def State.updBc (s : State) (f : BankController → BankController) : State := { s with bc := f s.bc }

def State.setAccounts (s : State) (k : BankId) (t : Vector EntryAccount 128) : State :=
  { s with accounts := s.accounts.set k t }

def State.updAccount (s : State) (k : BankId) (i : EntryIdx) (f : EntryAccount → EntryAccount) : State :=
  s.setAccounts k (tableSet (s.accounts.get k) i (f (tableGet (s.accounts.get k) i)))

def State.updPortCounters (s : State) (p : Port) (f : PortCounters → PortCounters) : State :=
  { s with portCounters := s.portCounters.set p (f (s.portCounters.get p)) }

def State.setRefill (s : State) (t : Option Half) : State := { s with refill := t }

def State.setQueue (s : State) (q : ViolationQueue) : State := { s with queue := q }

def State.updFlags (s : State) (p : Port) (f : AlertFlags → AlertFlags) : State :=
  { s with flags := s.flags.set p (f (s.flags.get p)) }

def State.setAlert (s : State) (p : Port) (l : Level) : State := { s with alert := s.alert.set p l }

def State.updParser (s : State) (p : Port) (f : Parser → Parser) : State :=
  { s with parser := s.parser.set p (f (s.parser.get p)) }

def State.setSlot (s : State) (p : Port) (t : Slot) : State := { s with slot := s.slot.set p t }

def State.setReadback (s : State) (p : Port) (l : List Byte) : State := { s with readback := s.readback.set p l }

def State.setJob (s : State) (p : Port) (j : Option LongCommand) : State := { s with job := s.job.set p j }

def State.setHolder (s : State) (h : Option Port) : State := { s with holder := h }

def State.setIdle (s : State) (t : Option Byte) : State := { s with idle := t }

def State.setSettings (s : State) (r : Settings) : State := { s with settings := r }

/-- The session's current part replaced. -/
def State.updPart (s : State) (p : Port) (f : Part → Part) : State :=
  s.updSession p fun e => { e with part := f e.part }

def State.setSessionState (s : State) (p : Port) (t : SessionState) : State :=
  s.updSession p fun e => { e with state := t }

/-! ## Readers -/

/-- The current part of a port's session. -/
def State.part (s : State) (p : Port) : Part := (s.session.get p).part

/-- The bank a port's session judges by: the one it captured (R28). -/
def State.judgedId (s : State) (p : Port) : BankId := (s.session.get p).bank.getD s.bc.active

/-- The contents of the bank a port's session judges by. -/
def State.judged (s : State) (p : Port) : Bank := s.bank.get (s.judgedId p)

/-- The entry a decision names, if it names one (R72). -/
def Decision.entry? : Option Decision → Option EntryIdx
  | some (.entry i) => some i
  | _ => none

/-- The entry of a port's current part, in its captured bank. -/
def State.partEntry (s : State) (p : Port) : Option Entry :=
  (Decision.entry? (s.part p).decision).map (tableGet (s.judged p).entries)

/-- The settings of a port in force. -/
def State.limits (s : State) (p : Port) : PortSettings := s.settings.port.get p

/-- The management address in force: 0x58 plus the two MADDR strap bits (R53, R159). -/
def State.managementAddress (s : State) : Addr := 0x58#10 + s.straps.maddr.setWidth 10

/-- The inactive bank (R126). -/
def State.shadowId (s : State) : BankId := s.bc.active.other

/-! ## The hold of an upstream clock -/

/-- A hold begins: the stretch timer starts with the limit in force, the abandon timer stops (R47, R48). -/
def beginHold (p : Port) (s : State) : State :=
  (s.updUpi p fun u => { u with hold := true }).updSession p fun e =>
    { e with stretch := some (s.limits p).stretch, abandon := none }

/-- A hold, if there is one, ends: the stretch timer stops, the abandon timer starts with the limit in force
(R47, R48). -/
def releaseHold (p : Port) (s : State) : State :=
  if (s.upi.get p).hold then
    (s.updUpi p fun u => { u with hold := false }).updSession p fun e =>
      { e with stretch := none, abandon := some (s.limits p).abandon }
  else s

/-- The UPI drives a ninth bit (R24). -/
def driveNinth (p : Port) (a : Ack) (s : State) : State := s.updUpi p fun u => { u with ninth := some a }

/-- The UPI releases its clock with a ninth bit. -/
def releaseWith (p : Port) (a : Ack) (s : State) : State := releaseHold p (driveNinth p a s)

/-- The UPI presents a byte upstream (R34, R45, R46). -/
def presentByte (p : Port) (b : Byte) (s : State) : State :=
  s.updUpi p fun u => { u with phase := .send, shift := some b }

/-- One more data byte of the part; the count stops at 255 (R26). -/
def countByte (p : Port) (s : State) : State := s.updPart p fun t => { t with count := satInc t.count }

/-- The filler byte in force is presented as the next byte of the part (R45, R179). -/
def presentFiller (p : Port) (s : State) : State := countByte p (presentByte p s.settings.filler s)

/-- The sub-address width of the part: that of its entry, 0 without one (R7, R72). -/
def Width.bytes : Width → Nat
  | .w0 => 0
  | .w1 => 1
  | .w2 => 2

/-- The sub-address width of the part of a port. -/
def State.width (s : State) (p : Port) : Width := ((s.partEntry p).map (·.width)).getD .w0

/-- A write data byte has completed upstream: the data byte count rises, and the length count too once the sub-address
bytes are past; it stops at 256 (R26, R71). -/
def countWriteByte (p : Port) (s : State) : State :=
  let w := (s.width p).bytes
  s.updPart p fun t =>
    { t with count := satInc t.count, length := if t.count.toNat < w then t.length else min 256 (t.length + 1) }

/-! ## Session states -/

/-- The part's phase on the line once its address was answered (R44). -/
def answerPhase : Direction → LinePhase
  | .write => .receive
  | .read => .send

/-- The byte a controller that goes on in DISCARD reads next: in a read part the filler byte, ready from the entry on; a
write part presents none (R44; log entry 14). -/
def discardShift (filler : Byte) : Direction → Option Byte
  | .write => none
  | .read => some filler

/-- The session enters DISCARD: any held byte is cleared, the wait timer stops, and a read part has the filler byte in force
ready for its first byte (R30, R39, R44). -/
def enterDiscard (p : Port) (s : State) : State :=
  (s.updSession p fun e =>
    { e with state := .discard, wait := none, part := { e.part with held := none } }).updUpi p fun u =>
      { u with phase := answerPhase (s.part p).direction, shift := discardShift s.settings.filler (s.part p).direction }

/-- The session enters FILL (R45). -/
def enterFill (p : Port) (s : State) : State := s.setSessionState p .fill

/-- Ownership of a segment ends on the session's side: the remembered pointer and 10-bit address, which name the owned
segment, are cleared (R40, R78; log entry 24). -/
def loseOwnership (p : Port) (s : State) : State :=
  s.updSession p fun e => { e with owned := none, pointer := none, remembered := none }

/-! ## Bank capture -/

/-- The session captures the active bank, unless it holds one already (R28, R128). -/
def captureBank (p : Port) (s : State) : State :=
  match (s.session.get p).bank with
  | some _ => s
  | none =>
    (s.updSession p fun e => { e with bank := some s.bc.active }).updBc fun c =>
      { c with holders := c.holders.set c.active (c.holders.get c.active + 1) }

/-- The session releases its captured bank; the last release of a draining shadow begins its reload
(R28, R128, R141). -/
def releaseBank (p : Port) (s : State) : State :=
  match (s.session.get p).bank with
  | none => s
  | some k =>
    (s.updSession p fun e => { e with bank := none }).updBc fun c =>
      { c with
        holders := c.holders.set k (c.holders.get k - 1),
        shadow :=
          if c.shadow = .draining ∧ k = c.active.other ∧ c.holders.get k - 1 = 0 then .reloading else c.shadow }

/-! ## Counters -/

/-- A hit of an entry of the captured bank (R68, R121). -/
def countHit (p : Port) (i : EntryIdx) (s : State) : State :=
  s.updAccount (s.judgedId p) i fun a => { a with hits := satInc a.hits }

/-- A violation of an entry of the captured bank (R64, R92, R121). -/
def countViolation (p : Port) (i : EntryIdx) (s : State) : State :=
  s.updAccount (s.judgedId p) i fun a => { a with violations := satInc a.violations }

/-- A grant of a segment (R98, R122). -/
def countGrant (g : SegId) (s : State) : State := s.updSegCounters g fun c => { c with grants := satInc c.grants }

/-- A recovery of a segment (R104, R122). -/
def countRecovery (g : SegId) (s : State) : State :=
  s.updSegCounters g fun c => { c with recoveries := satInc c.recoveries }

/-- An entry of a segment to QUARANTINED (R108, R122). -/
def countQuarantine (g : SegId) (s : State) : State :=
  s.updSegCounters g fun c => { c with quarantines := satInc c.quarantines }

/-- A management frame with a failing CRC-8 (R123). -/
def countCrcError (p : Port) (s : State) : State :=
  s.updPortCounters p fun c => { c with crcErrors := satInc c.crcErrors }

/-- An expiry of a port's abandon timer (R48, R123). -/
def countAbandoned (p : Port) (s : State) : State :=
  s.updPortCounters p fun c => { c with abandoned := satInc c.abandoned }

/-- An event the device takes only while it is in service (R184). -/
def inService (f : State → State) (s : State) : State := if s.phase = .inService then f s else s

end Sys2Proof.Machine
end

