-- ==== Sys2Proof/Machine/Flags.lean ====
section
/-!
DEFINITION. The Alert Unit and the Violation Queue: latched flags (R154), the QUEUE condition (R156), the two alert
lines (R157), storing, dropping and removing records (R149, R150, R153), and making the record of a part (R26).
-/

namespace Sys2Proof.Machine

/-- QUEUE holds while the depth is at least the watermark (R156). -/
def State.queueHolds (s : State) : Bool := s.settings.watermark.toNat ≤ s.queue.records.length

/-- At least one condition selected by a mask holds (R157). -/
def alertHolds (m : AlertMask) (queue : Bool) (f : AlertFlags) : Bool :=
  (m.queue && queue) || (m.segmentEvent && f.segmentEvent) || (m.commitDone && f.commitDone) ||
    (m.overflow && f.overflow)

/-- The level a port's alert line takes at an evaluation (R157). -/
def State.alertLevel (s : State) (p : Port) : Level :=
  if alertHolds (s.limits p).mask s.queueHolds (s.flags.get p) then .low else .high

/-- A port's alert line is evaluated (R157). -/
def evalAlert (p : Port) (s : State) : State := s.setAlert p (s.alertLevel p)

/-- Both alert lines are evaluated (R157). -/
def evalAlerts (s : State) : State := evalAlert .up1 (evalAlert .up0 s)

/-- A segment entered QUARANTINED: SEGMENT_EVENT is latched for both ports (R108, R154). -/
def latchSegmentEvent (s : State) : State :=
  evalAlerts ((s.updFlags .up0 fun f => { f with segmentEvent := true }).updFlags .up1 fun f =>
    { f with segmentEvent := true })

/-- A record was dropped: OVERFLOW is latched for both ports (R150, R154). -/
def latchOverflow (s : State) : State :=
  evalAlerts ((s.updFlags .up0 fun f => { f with overflow := true }).updFlags .up1 fun f => { f with overflow := true })

/-- A commit passed: COMMIT_DONE is latched for the issuing port (R139, R154). -/
def latchCommitDone (p : Port) (s : State) : State := evalAlert p (s.updFlags p fun f => { f with commitDone := true })

/-- A port's flags are cleared and its line evaluated (R155). -/
def clearPortFlags (p : Port) (s : State) : State := evalAlert p (s.updFlags p fun _ => noFlags)

/-- The Violation Queue takes an append: it stores the record at the tail (R149) or drops it (R150). -/
def appendViolation (v : Violation) (s : State) : State :=
  if s.queue.records.length < Config.queueCapacity then
    evalAlerts (s.setQueue
      { s.queue with
        records := s.queue.records ++ [{ v with sequence := s.queue.nextSequence }],
        nextSequence := s.queue.nextSequence + 1 })
  else latchOverflow (s.setQueue { s.queue with overflow := satInc s.queue.overflow })

/-- The Violation Queue removes the `n` oldest records, at most all; left empty, it clears the overflow counter
(R153). -/
def removeViolations (n : Nat) (s : State) : State :=
  let left := s.queue.records.drop n
  evalAlerts (s.setQueue { s.queue with records := left, overflow := if left = [] then 0 else s.queue.overflow })

/-- The record of a port's current part (R26, R65, R93, R146). -/
def State.violationOf (s : State) (p : Port) (r : Reason) (o : RecordOutcome) (offset : Option Half) : Violation :=
  let t := s.part p
  { sequence := 0, port := p, reason := r, outcome := o, direction := t.direction, kind := t.kind,
    address := t.address, entry := Decision.entry? t.decision, segment := t.segment, offset := offset,
    position := t.count, tag := (s.judged p).header.tag }

/-- The part makes a record, unless it has made one already; the flag is set whether the queue stores or drops it
(R26, R92, R149). -/
def makeRecord (p : Port) (r : Reason) (o : RecordOutcome) (offset : Option Half) (s : State) : State :=
  if (s.part p).recorded then s
  else (appendViolation (s.violationOf p r o offset) s).updPart p fun t => { t with recorded := true }

/-- The part is refused at its address with a reason: record REFUSED, release with NACK, DISCARD
(R29, R30, R52, R65). -/
def refuseAddress (p : Port) (r : Reason) (offset : Option Half) (s : State) : State :=
  enterDiscard p (releaseWith p .nack
    ((makeRecord p r .refused offset s).updPart p fun t => { t with decision := some (.refused r) }))

end Sys2Proof.Machine
end

