-- ==== Sys2Proof/Machine/Operands.lean ====
section
/-!
DEFINITION. The forms in which operands and results stand in bytes: the codes of R188 and R191, the images of R189 with
the field checks of R13 to R15, the Settings record of R192 with the checks of R180, and the violation record of R190.
-/

namespace Sys2Proof.Machine

/-! ## Codes -/

def Port.code : Port → Byte
  | .up0 => 1
  | .up1 => 2

/-- Owner, holder and waiter codes (R191). -/
def portCode : Option Port → Byte
  | none => 0
  | some p => Port.code p

def SegId.code : SegId → Byte
  | .seg0 => 0
  | .seg1 => 1
  | .seg2 => 2
  | .seg3 => 3

/-- A segment argument takes 0 to 3; any other value gives RANGE (09_the_management_channel.md 9.7). -/
def segOfByte (b : Byte) : Option SegId :=
  match b.toNat with
  | 0 => some .seg0
  | 1 => some .seg1
  | 2 => some .seg2
  | 3 => some .seg3
  | _ => none

/-- A yes/no argument takes 0 or 1 (09_the_management_channel.md 9.7). -/
def yesNoOfByte (b : Byte) : Option Bool :=
  match b.toNat with
  | 0 => some false
  | 1 => some true
  | _ => none

def SegState.code : SegState → Byte
  | .idle => 0
  | .owned => 1
  | .closing => 2
  | .quarantined => 3
  | .disabled => 4

def QuarantineReason.code : QuarantineReason → Byte
  | .none => 0
  | .foreign => 1
  | .clockHeld => 2
  | .dataHeld => 3

def Speed.code : Speed → Byte
  | .khz100 => 0
  | .khz400 => 1
  | .khz1000 => 2

def speedOfByte (b : Byte) : Option Speed :=
  match b.toNat with
  | 0 => some .khz100
  | 1 => some .khz400
  | 2 => some .khz1000
  | _ => none

def CloseStep.code : CloseStep → Byte
  | .one => 1
  | .two => 2
  | .three => 3

def ShadowState.code : ShadowState → Byte
  | .editable => 0
  | .validating => 1
  | .draining => 2
  | .reloading => 3
  | .locked => 4

def BankId.code : BankId → Byte
  | .a => 0
  | .b => 1

/-- Status codes (R188). -/
def Status.code : Status → Byte
  | .ok => 0x00
  | .inProgress => 0x01
  | .empty => 0x02
  | .badCrc => 0x10
  | .badLength => 0x11
  | .badCommand => 0x12
  | .range => 0x13
  | .noSession => 0x14
  | .owned => 0x15
  | .busy => 0x16
  | .locked => 0x17
  | .commitFailed => 0x18
  | .state => 0x19

/-- Commit failure reason codes (R188). -/
def CommitReason.code : CommitReason → Byte
  | .checksum => 0x01
  | .reservedAddress => 0x02
  | .kindMismatch => 0x03
  | .widthList => 0x04
  | .listBounds => 0x05
  | .windowValue => 0x06
  | .listOrder => 0x07
  | .refillMissing => 0x08
  | .duplicate => 0x09

/-- Violation reason codes (R190). -/
def Reason.code : Reason → BitVec 5
  | .noEntry => 0x01
  | .portDenied => 0x02
  | .direction => 0x03
  | .noCredit => 0x04
  | .writeWindow => 0x05
  | .readWindow => 0x06
  | .noPointer => 0x07
  | .writeLength => 0x08
  | .readLength => 0x09
  | .generalCall => 0x0A
  | .grantTimeout => 0x0B
  | .segmentUnavailable => 0x0C
  | .targetTimeout => 0x0D
  | .segmentLost => 0x0E
  | .abandoned => 0x0F
  | .aborted => 0x10

def RecordOutcome.code : RecordOutcome → BitVec 2
  | .refused => 0
  | .cut => 1
  | .passed => 2

/-- One bit. -/
def bit (b : Bool) : BitVec 1 := if b then 1#1 else 0#1

/-! ## The bank header (R15, R189) -/

def headerImage (h : Header) : List Byte :=
  [if h.defaultAction = .forward then 1 else 0, SegId.code h.defaultSegment,
   if h.generalCallAction = .forward then 1 else 0, SegId.code h.generalCallSegment] ++
    be16 h.refillTick ++ be16 h.tag

/-- The header an image carries, if it passes the field checks of R15. -/
def headerOfImage : List Byte → Option Header
  | [b0, b1, b2, b3, b4, b5, b6, b7] =>
    match yesNoOfByte b0, segOfByte b1, yesNoOfByte b2, segOfByte b3 with
    | some d, some ds, some g, some gs =>
      if halfOf b4 b5 = 0 then none
      else some
        { defaultAction := if d then .forward else .deny, defaultSegment := ds,
          generalCallAction := if g then .forward else .block, generalCallSegment := gs,
          refillTick := halfOf b4 b5, tag := halfOf b6 b7 }
    | _, _, _, _ => none
  | _ => none

/-! ## The filter entry (R14, R189) -/

def Access.code : Access → BitVec 2
  | .none => 0
  | .read => 1
  | .write => 2
  | .readWrite => 3

def accessOfBits (x : BitVec 2) : Access :=
  match x.toNat with
  | 0 => .none
  | 1 => .read
  | 2 => .write
  | _ => .readWrite

def Width.code : Width → BitVec 2
  | .w0 => 0
  | .w1 => 1
  | .w2 => 2

def widthOfBits (x : BitVec 2) : Option Width :=
  match x.toNat with
  | 0 => some .w0
  | 1 => some .w1
  | 2 => some .w2
  | _ => none

/-- The two-bit segment field of an entry. -/
def SegId.bits : SegId → BitVec 2
  | .seg0 => 0
  | .seg1 => 1
  | .seg2 => 2
  | .seg3 => 3

def segOfBits (x : BitVec 2) : SegId :=
  match x.toNat with
  | 0 => .seg0
  | 1 => .seg1
  | 2 => .seg2
  | _ => .seg3

/-- A 10-bit field in two bytes, its upper six bits zero. -/
def addrImage (a : Addr) : List Byte := [0#6 ++ addrHigh a, addrLow a]

/-- An optional limit, absent as zero (R2). -/
def limitImage : Option Byte → Byte
  | none => 0
  | some x => x

def limitOfByte (b : Byte) : Option Byte := if b = 0 then none else some b

/-- An optional window list, absent as zeros (R2, R8). -/
def listImage : Option WindowList → List Byte
  | none => [0, 0]
  | some l => [l.first, l.count]

/-- A window list field passes with a count of 0 to 16, and first index 0 when the count is 0 (R14). -/
def listOfBytes (first count : Byte) : Option (Option WindowList) :=
  if count = 0 then (if first = 0 then some none else none)
  else if count.toNat ≤ 16 then some (some ⟨first, count⟩) else none

/-- Byte 0 of an entry image (R189). -/
def entryFlags (e : Entry) : Byte :=
  (bit e.valid ++ bit (e.kind = .ten) ++ bit (e.action = .logOnly) ++ bit (e.mode = .everyByte) ++
    bit e.target.isSome ++ 0#1 ++ Width.code e.width : BitVec (1 + 1 + 1 + 1 + 1 + 1 + 2))

/-- Byte 5 of an entry image (R189). -/
def entryAccessByte (e : Entry) : Byte :=
  (0#2 ++ Access.code e.access.up1 ++ Access.code e.access.up0 ++ SegId.bits e.segment : BitVec (2 + 2 + 2 + 2))

def entryImage (e : Entry) : List Byte :=
  [entryFlags e] ++ addrImage e.matchAddr ++ addrImage (e.target.getD 0) ++ [entryAccessByte e] ++
    listImage e.writeList ++ listImage e.readList ++
    [limitImage e.writeLimit, limitImage e.readLimit, limitImage e.creditLimit, e.creditRefill, 0, 0]

/-- The match address field: upper six bits zero, and 0x00 to 0x7F for a 7-bit entry (R14). -/
def matchOfBytes (kind : AddrKind) (hi lo : Byte) : Option Addr :=
  if hi.toNat < 4 ∧ (kind = .seven → hi = 0 ∧ lo.toNat < 128) then some (addr10 (hi.extractLsb' 0 2) lo) else none

/-- The target address field: present, upper six bits zero; absent, both bytes zero (R14). -/
def targetOfBytes (present : Bool) (hi lo : Byte) : Option (Option Addr) :=
  if present then (if hi.toNat < 4 then some (some (addr10 (hi.extractLsb' 0 2) lo)) else none)
  else if hi = 0 ∧ lo = 0 then some none else none

/-- The entry an image carries, if it passes the field checks of R14. -/
def entryOfImage : List Byte → Option Entry
  | [f, m1, m2, t1, t2, a, w1, wc, r1, rc, wl, rl, cl, cr, z1, z2] =>
    let kind : AddrKind := if f.getLsbD 6 then .ten else .seven
    match widthOfBits (f.extractLsb' 0 2), matchOfBytes kind m1 m2, targetOfBytes (f.getLsbD 3) t1 t2,
      listOfBytes w1 wc, listOfBytes r1 rc with
    | some width, some addr, some target, some writes, some reads =>
      if f.getLsbD 2 = false ∧ a.extractLsb' 6 2 = 0 ∧ z1 = 0 ∧ z2 = 0 then
        some
          { valid := f.getLsbD 7, kind := kind, matchAddr := addr, target := target,
            segment := segOfBits (a.extractLsb' 0 2),
            access := ⟨accessOfBits (a.extractLsb' 2 2), accessOfBits (a.extractLsb' 4 2)⟩, width := width,
            mode := if f.getLsbD 4 then .everyByte else .atStart, writeList := writes, readList := reads,
            writeLimit := limitOfByte wl, readLimit := limitOfByte rl, creditLimit := limitOfByte cl,
            creditRefill := cr, action := if f.getLsbD 5 then .logOnly else .refuse }
      else none
    | _, _, _, _, _ => none
  | _ => none

/-- An entry index argument takes 0 to 127 (R14, R16, R170). -/
def entryIdxOfByte (b : Byte) : Option EntryIdx := if h : b.toNat < 128 then some ⟨b.toNat, h⟩ else none

/-- Every window index is valid (R170). -/
def windowIdxOfByte (b : Byte) : WindowIdx := ⟨b.toNat, b.isLt⟩

/-! ## Windows (R15, R189) -/

def windowImage (w : Window) : List Byte := be16 w.low ++ be16 w.high

/-- The windows some images carry, if none has its low offset above its high offset (R15). -/
def windowsOfImages : List Byte → Option (List Window)
  | [] => some []
  | l1 :: l2 :: h1 :: h2 :: rest =>
    if (halfOf l1 l2).toNat ≤ (halfOf h1 h2).toNat then
      (windowsOfImages rest).map (⟨halfOf l1 l2, halfOf h1 h2⟩ :: ·)
    else none
  | _ => none

/-- The canonical image of a bank, 3080 bytes (R2, R189). -/
def bankImage (k : Bank) : List Byte :=
  headerImage k.header ++ k.entries.toList.flatMap entryImage ++ k.windows.toList.flatMap windowImage

/-- The bank CRC (R2, R187). -/
def bankCrc (k : Bank) : Half := crc16 crc16Init (bankImage k)

/-! ## The Settings record (R180, R192) -/

def maskByte (m : AlertMask) : Byte :=
  (0#4 ++ bit m.overflow ++ bit m.commitDone ++ bit m.segmentEvent ++ bit m.queue : BitVec (4 + 1 + 1 + 1 + 1))

/-- An alert mask passes with no bit set beyond the four conditions (R180). -/
def maskOfByte (b : Byte) : Option AlertMask :=
  if b.toNat < 16 then
    some { queue := b.getLsbD 0, segmentEvent := b.getLsbD 1, commitDone := b.getLsbD 2, overflow := b.getLsbD 3 }
  else none

def portSettingsImage (r : PortSettings) : List Byte := [r.stretch, r.abandon, r.wait, maskByte r.mask]

/-- The settings of one port: no stretch or abandon limit of 0 (R180). -/
def portSettingsOfBytes (st ab wa ma : Byte) : Option PortSettings :=
  if st = 0 ∨ ab = 0 then none
  else (maskOfByte ma).map fun m => { stretch := st, abandon := ab, wait := wa, mask := m }

def settingsImage (r : Settings) : List Byte :=
  portSettingsImage r.port.up0 ++ portSettingsImage r.port.up1 ++
    [r.filler, r.holdLimit, r.watermark, r.idleTimeout, Speed.code r.speed.seg0, Speed.code r.speed.seg1,
     Speed.code r.speed.seg2, Speed.code r.speed.seg3]

/-- The Settings record sixteen bytes carry, if every field passes its check (R180). -/
def settingsOfBytes : List Byte → Option Settings
  | [s0, a0, w0, m0, s1, a1, w1, m1, fi, ho, wm, it, v0, v1, v2, v3] =>
    match portSettingsOfBytes s0 a0 w0 m0, portSettingsOfBytes s1 a1 w1 m1, speedOfByte v0, speedOfByte v1,
      speedOfByte v2, speedOfByte v3 with
    | some p0, some p1, some x0, some x1, some x2, some x3 =>
      if ho = 0 ∨ wm = 0 ∨ 32 < wm.toNat ∨ it = 0 ∨ 60 < it.toNat then none
      else some
        { port := ⟨p0, p1⟩, filler := fi, holdLimit := ho, watermark := wm, idleTimeout := it,
          speed := ⟨x0, x1, x2, x3⟩ }
    | _, _, _, _, _, _ => none
  | _ => none

/-! ## The violation record (R190) -/

def recordImage (v : Violation) : List Byte :=
  be16 v.sequence ++
    [(bit (v.port = .up1) ++ bit (v.direction = .read) ++ bit (v.kind = .ten) ++ Reason.code v.reason
        : BitVec (1 + 1 + 1 + 5)),
     (RecordOutcome.code v.outcome ++ bit v.entry.isSome ++ bit v.segment.isSome ++ bit v.offset.isSome ++ 0#1 ++
        addrHigh v.address : BitVec (2 + 1 + 1 + 1 + 1 + 2)),
     addrLow v.address,
     (match v.entry with
      | none => 0
      | some i => BitVec.ofNat 8 i.val),
     (match v.segment with
      | none => 0
      | some g => SegId.code g)] ++
    be16 (v.offset.getD 0) ++ [v.position] ++ be16 v.tag

/-- The latched flags as STATUS_READ reports them (R191). -/
def flagsByte (f : AlertFlags) : Byte :=
  (0#5 ++ bit f.overflow ++ bit f.commitDone ++ bit f.segmentEvent : BitVec (5 + 1 + 1 + 1))

/-- A slot as a read frame returns it: status, length, payload and CRC-8 (R165, R188). -/
def slotFrame (address : Byte) (t : Slot) : List Byte :=
  let body := [Status.code t.status, BitVec.ofNat 8 t.payload.length] ++ t.payload
  body ++ [crc8 crc8Init (address :: body)]

end Sys2Proof.Machine
end

