-- ==== Sys2Proof/Machine/Policy.lean ====
section
/-!
DEFINITION. The Policy Lookup Unit (R52, R57 to R60) and the checks that read a bank: access (R6, R61), windows (R12),
offsets (R75). It keeps no state.
-/

namespace Sys2Proof.Machine

/-- What an access grants (R6, R61). -/
def Access.allows : Access → Direction → Bool
  | .none, _ => false
  | .read, d => d = .read
  | .write, d => d = .write
  | .readWrite, _ => true

/-- An offset lies in a window (R12). -/
def Window.contains (w : Window) (o : Half) : Bool := w.low.toNat ≤ o.toNat && o.toNat ≤ w.high.toNat

/-- The windows of a list, in its order (R8). -/
def listWindows (k : Bank) (l : WindowList) : List (Option Window) :=
  (List.range l.count.toNat).map fun j => k.windows[l.first.toNat + j]?

/-- An offset lies in a window list (R12). -/
def inList (k : Bank) (l : WindowList) (o : Half) : Bool :=
  (listWindows k l).any fun w =>
    match w with
    | some w => w.contains o
    | none => false

/-- The entry of lowest index with a property. -/
def findEntry (k : Bank) (f : Entry → Bool) : Option EntryIdx :=
  (List.finRange 128).find? fun i => f (tableGet k.entries i)

/-- An entry claims an address: valid, same kind, same match address (R3, R58). -/
def Entry.claims (e : Entry) (kind : AddrKind) (a : Addr) : Bool := e.valid && e.kind = kind && e.matchAddr = a

/-- The entry that claims an address and grants the port an access (R58). -/
def grantingEntry (k : Bank) (p : Port) (kind : AddrKind) (a : Addr) : Option EntryIdx :=
  findEntry k fun e => e.claims kind a && e.access.get p ≠ .none

/-- The lowest entry that claims an address and grants the port nothing (R59). -/
def claimingEntry (k : Bank) (p : Port) (kind : AddrKind) (a : Addr) : Option EntryIdx :=
  findEntry k fun e => e.claims kind a && e.access.get p = .none

/-- The first-byte question of a 10-bit write address (R38, R57). -/
def firstByteAnswer (k : Bank) (p : Port) (hi : BitVec 2) : Bool :=
  (findEntry k fun e => e.valid && e.kind = .ten && addrHigh e.matchAddr = hi && e.access.get p ≠ .none).isSome ||
    k.header.defaultAction = .forward

/-- The offset that follows, within the range the width fixes (R7, R75). -/
def nextOffset : Width → Half → Half
  | .w1, o => (o + 1) &&& 0x00FF#16
  | _, o => o + 1

/-- The sub-address the gathered bytes form, first byte most significant (R7). -/
def subAddress : List Byte → Half
  | [b] => 0#8 ++ b
  | [b0, b1] => halfOf b0 b1
  | _ => 0

/-- The remembered pointer's offset when it is bound to an entry (R62, R79). -/
def State.pointerFor (s : State) (p : Port) (i : EntryIdx) : Option Half :=
  match (s.session.get p).pointer with
  | some q => if q.entry = i then some q.offset else none
  | none => none

end Sys2Proof.Machine
end

