-- ==== Sys2Proof/Machine/Segments.lean ====
section
/-!
DEFINITION. The Segment Controllers' shared operations: grants and the waiter list (R98, R99), release (R100), give-up
(R101), the close procedure (R102), QUARANTINED (R108), DISABLED (R109), the completion of the long commands that wait on
a segment (R168), and how a part is answered when another block ends it (R47, R49, R50).
-/

namespace Sys2Proof.Machine

/-! ## Response slots -/

/-- A command completes: its port's slot takes the result (R163, R164, R168). -/
def finishCommand (p : Port) (t : Status) (payload : List Byte) (s : State) : State :=
  (s.setSlot p ⟨t, payload⟩).setJob p none

/-- A long command is taken: its port's slot reads IN_PROGRESS with no payload (R163, R168). -/
def startLong (p : Port) (j : LongCommand) (s : State) : State := (s.setSlot p ⟨.inProgress, []⟩).setJob p (some j)

/-- The codes of the states of SEG0 to SEG3 (R169, R177). -/
def segStates (s : State) : List Byte :=
  [SegState.code s.seg.seg0.state, SegState.code s.seg.seg1.state, SegState.code s.seg.seg2.state,
   SegState.code s.seg.seg3.state]

/-- The payload of ABORT_ALL (R177, R191). -/
def abortPayload (parts : Nat) (s : State) : List Byte := BitVec.ofNat 8 parts :: segStates s

/-- The long command of one port, if it waits on this segment, sees the segment's close procedure end, or the segment
enter DISABLED, in a state with a quarantine reason (R104, R109 to R112, R168, R176, R177). -/
def completeJob (g : SegId) (t : SegState) (r : QuarantineReason) (p : Port) (s : State) : State :=
  match s.job.get p with
  | some (.segmentDisable h) => if h = g ∧ t = .disabled then finishCommand p .ok [] s else s
  | some (.segmentEnable h) => if h = g then finishCommand p .ok [SegState.code t, QuarantineReason.code r] s else s
  | some (.segmentRelease h) => if h = g then finishCommand p .ok [SegState.code t, QuarantineReason.code r] s else s
  | some (.abortAll n waiting) =>
    if g ∈ waiting then
      if waiting.erase g = [] then finishCommand p .ok (abortPayload n s) s
      else s.setJob p (some (.abortAll n (waiting.erase g)))
    else s
  | some .commit => s
  | some .shadowReload => s
  | none => s

/-- The long commands of both ports that wait on this segment (R168). -/
def completeJobs (g : SegId) (t : SegState) (r : QuarantineReason) (s : State) : State :=
  completeJob g t r .up1 (completeJob g t r .up0 s)

/-! ## Waiters -/

/-- A port leaves the waiter list of the segment its part names, and a request of its own that waits for the STOP of a
release is withdrawn (R99; log entry 5). -/
def withdraw (p : Port) (s : State) : State :=
  match (s.part p).segment with
  | some g => s.updSeg g fun c => { c with waiters := c.waiters.erase p, deferred := c.deferred.erase (.request p) }
  | none => s

/-- The list is emptied, and every waiter of it is refused with SEGMENT_UNAVAILABLE in list order (R99). -/
def refuseWaiters (g : SegId) (s : State) : State :=
  (s.seg.get g).waiters.foldl (fun s p => refuseAddress p .segmentUnavailable none s)
    (s.updSeg g fun c => { c with waiters := [] })

/-! ## Grants -/

/-- The bytes of the target address phase: one for a 7-bit address, two for a 10-bit write, one for a 10-bit read
(R31, R41). -/
def addressBytes (t : Part) : Byte × List Byte :=
  match t.kind, t.direction with
  | .seven, d => (addressByte7 t.target d, [])
  | .ten, .write => (addressByte10 t.target .write, [addrLow t.target])
  | .ten, .read => (addressByte10 t.target .read, [])

/-- The Segment Controller of a segment the session owns drives START, or repeated START, and the target address
(R31, R97). -/
def driveAddress (p : Port) (g : SegId) (restart : Bool) (s : State) : State :=
  (s.setSessionState p .connect).updSeg g fun c =>
    { c with
      act := some (.address restart (addressBytes (s.part p)).1 (addressBytes (s.part p)).2), ninthOwed := false }

/-- A grant: the port leaves the waiter list and owns the segment, the grants counter rises, the speed is latched, the
wait timer stops, and START with the target address is driven (R30, R31, R98, R113). -/
def grantSegment (p : Port) (g : SegId) (s : State) : State :=
  driveAddress p g false
    ((countGrant g (s.updSeg g fun c =>
      { c with
        state := .owned, owner := some p, waiters := c.waiters.erase p, speed := s.settings.speed.get g })).updSession p
      fun e => { e with owned := some g, wait := none })

/-- The segment's head waiter, if any, is granted it (R98). -/
def grantHead (g : SegId) (s : State) : State :=
  match (s.seg.get g).waiters with
  | [] => s
  | p :: _ => grantSegment p g s

/-! ## The close procedure -/

/-- A close procedure starts: neither line driven, speed and hold limit latched, first step, no pulses; its hold timer
bounds the wait for SCL (R94, R102; log entries 7 and 8). -/
def startClose (g : SegId) (s : State) : State :=
  s.updSeg g fun c =>
    { c with
      state := .closing, owner := none, reason := .none, speed := s.settings.speed.get g,
      holdLimit := s.settings.holdLimit, step := .one, pulses := 0, hold := some s.settings.holdLimit, act := none,
      ninthOwed := false }

/-- A close procedure goes on to a step, its hold timer started afresh with the latched limit (R103, R104). -/
def closeStep (g : SegId) (t : CloseStep) (s : State) : State :=
  s.updSeg g fun c => { c with step := t, hold := some c.holdLimit }

/-- A segment enters DISABLED: waiters refused, disable pending cleared, lines released, the commands that wait on it
complete (R109). -/
def enterDisabled (g : SegId) (s : State) : State :=
  completeJobs g .disabled .none
    ((refuseWaiters g s).updSeg g fun c =>
      { c with
        state := .disabled, owner := none, reason := .none, disablePending := false, hold := none, act := none,
        ninthOwed := false })

/-- A segment enters QUARANTINED with a reason, with the effects of R108; a pending disable then takes it to DISABLED
at once (R108, R109), and otherwise the commands that wait on it complete. -/
def enterQuarantine (g : SegId) (r : QuarantineReason) (s : State) : State :=
  let s := latchSegmentEvent (countQuarantine g (refuseWaiters g (s.updSeg g fun c =>
    { c with
      state := .quarantined, owner := none, reason := r, hold := none, act := none, ninthOwed := false })))
  if (s.seg.get g).disablePending then enterDisabled g s else completeJobs g .quarantined r s

/-- A segment whose STOP has formed enters DISABLED when a disable is pending; otherwise it enters IDLE, the commands
that wait on it complete, and its head waiter is granted it in the same event (R98, R100, R104; log entry 18). -/
def settleSegment (g : SegId) (s : State) : State :=
  if (s.seg.get g).disablePending then enterDisabled g s
  else
    grantHead g (completeJobs g .idle .none (s.updSeg g fun c =>
      { c with state := .idle, owner := none, hold := none, act := none, ninthOwed := false }))

/-! ## The end of ownership -/

/-- The session releases the segment it owns, if it owns one: ownership ends and the STOP of the release is driven
(R100; log entry 5). -/
def releaseSegment (p : Port) (s : State) : State :=
  match (s.session.get p).owned with
  | none => s
  | some g =>
    (loseOwnership p s).updSeg g fun c => { c with owner := none, act := some .releaseStop, ninthOwed := false }

/-- The session gives up the segment it owns, if it owns one: the act is broken off and the close procedure starts, the
waiters kept (R101). -/
def giveUpSegment (p : Port) (s : State) : State :=
  match (s.session.get p).owned with
  | none => s
  | some g => startClose g (loseOwnership p s)

/-- What a target or a loss reports of a segment acts for the session that owns it; otherwise nothing waits for it
(R47, R50, R107). -/
def forOwner (g : SegId) (act : Port → State → State) (s : State) : State :=
  match (s.seg.get g).owner with
  | some p => if (s.session.get p).owned = some g then act p s else s
  | none => s

/-! ## Requests -/

/-- The port waits for a segment: it is appended at the tail and its wait timer starts; with a wait limit of 0 it is
withdrawn at once and refused GRANT_TIMEOUT (R30, R98). -/
def joinWaiters (p : Port) (g : SegId) (s : State) : State :=
  let s' := s.updSeg g fun c => { c with waiters := c.waiters ++ [p] }
  if (s.limits p).wait = 0 then refuseAddress p .grantTimeout none (withdraw p s')
  else s'.updSession p fun e => { e with wait := some (s.limits p).wait }

/-- What reaches a Segment Controller while it drives the STOP of a release waits for that STOP to end (R98, R100, R109; log
entries 5 and 6). -/
def defer (g : SegId) (d : Deferred) (s : State) : State := s.updSeg g fun c => { c with deferred := c.deferred ++ [d] }

/-- A Session Engine requests a segment, and the Segment Controller answers by its state (R30, R67, R98). A segment that is
OWNED without an owner has been released: its answer waits for the STOP of the release (log entry 5). -/
def requestSegment (p : Port) (g : SegId) (s : State) : State :=
  let s := s.setSessionState p .grantWait
  match (s.seg.get g).state with
  | .idle => grantSegment p g s
  | .owned =>
    match (s.seg.get g).owner with
    | some _ => joinWaiters p g s
    | none => defer g (.request p) s
  | .closing => joinWaiters p g s
  | .quarantined => refuseAddress p .segmentUnavailable none s
  | .disabled => refuseAddress p .segmentUnavailable none s

/-- A part decided for forwarding needs the segment its decision names: a segment the session owns is kept, another one
it owns is released first, and otherwise the segment is requested (R30, R43, R66). -/
def forwardPart (p : Port) (s : State) : State :=
  match (s.part p).segment with
  | none => s
  | some g =>
    if (s.session.get p).owned = some g then driveAddress p g true s else requestSegment p g (releaseSegment p s)

/-! ## Parts ended by another block -/

/-- The part is refused in GRANT_WAIT: the port withdraws from the waiter list (R30, R49). -/
def refuseWaiting (p : Port) (r : Reason) (s : State) : State := refuseAddress p r none (withdraw p s)

/-- The part is answered upstream by its phase with a session reason (R47, R49, R50): a pending address or write byte
with NACK, a requested read byte with the filler byte. Sessions in IDLE, ADDRESS, MGMT, DISCARD and FILL are not
reached. -/
def answerPart (p : Port) (r : Reason) (s : State) : State :=
  match (s.session.get p).state with
  | .grantWait => refuseWaiting p r s
  | .connect => refuseAddress p r none s
  | .write =>
    let s := makeRecord p r .cut none s
    enterDiscard p (if (s.upi.get p).hold then releaseWith p .nack s else s)
  | .read =>
    let s := makeRecord p r .cut none s
    enterFill p (if (s.upi.get p).hold then releaseHold p (presentFiller p s) else s)
  | .idle => s
  | .address => s
  | .mgmt => s
  | .discard => s
  | .fill => s

/-- An abort reaches a Session Engine: a relaying part is answered, and the session's segment, one kept across a repeated
START included, is given up (R49, R112). -/
def abortSession (p : Port) (s : State) : State := giveUpSegment p (answerPart p .aborted s)

/-- A disable is pending on a segment: it enters DISABLED when its close procedure ends (R109). -/
def pendDisable (g : SegId) (s : State) : State := s.updSeg g fun c => { c with disablePending := true }

/-- What a disable does to a segment by the state it finds (R109). A segment that is OWNED without an owner has been
released: the disable waits for the STOP of the release and finds what that leaves (R100; log entry 6). -/
def applyDisable (g : SegId) (s : State) : State :=
  match (s.seg.get g).state with
  | .idle => enterDisabled g s
  | .quarantined => enterDisabled g s
  | .disabled => s
  | .closing => pendDisable g s
  | .owned =>
    match (s.seg.get g).owner with
    | some q => pendDisable g (abortSession q s)
    | none => defer g .disable s

/-- A request or a disable that waited for the STOP of a release is taken, by the state it now finds (R98, R100, R109). -/
def takeDeferred (g : SegId) (d : Deferred) (s : State) : State :=
  match d with
  | .request p => requestSegment p g s
  | .disable => applyDisable g s

/-- All that waited for the STOP of a release is taken, in its order (R98, R100, R109; log entries 5 and 6). -/
def takeAllDeferred (g : SegId) (l : List Deferred) (s : State) : State := l.foldl (fun s d => takeDeferred g d s) s

/-- A session that has a part for ABORT_ALL to abort (R49). -/
def State.relaying (s : State) (p : Port) : Bool :=
  match (s.session.get p).state with
  | .grantWait => true
  | .connect => true
  | .write => true
  | .read => true
  | .idle => false
  | .address => false
  | .mgmt => false
  | .discard => false
  | .fill => false

end Sys2Proof.Machine
end

