-- ==== Sys2Proof/Machine/Decisions.lean ====
section
/-!
DEFINITION. The address judgement (03_address_decisions.md): the ordered steps of R52, a violation under REFUSE and
LOG_ONLY (R64), credit (R63, R119), and what each outcome hands to the session (R29, R38, R41, R46, R165).
-/

namespace Sys2Proof.Machine

/-- The outcome of a judging step: the state, and the reason and offset of a refusal, if it refuses (R52). -/
abbrev Judged := State × Option (Reason × Option Half)

/-- The next step is taken unless this one refused (R52). -/
def andThen (x : Judged) (f : State → Judged) : Judged :=
  match x.2 with
  | some _ => x
  | none => f x.1

/-- A violation of the part's entry at the address phase: it is counted; under REFUSE it refuses, under LOG_ONLY it makes
a PASSED record, if the part has made none, and the judgement goes on (R64). -/
def addressViolation (p : Port) (i : EntryIdx) (e : Entry) (r : Reason) (offset : Option Half) (s : State) : Judged :=
  let s := countViolation p i s
  match e.action with
  | .refuse => (s, some (r, offset))
  | .logOnly => (makeRecord p r .passed offset s, none)

/-- The decision, segment and target address are held in the current part (R66). -/
def setDecision (p : Port) (d : Decision) (g : SegId) (target : Addr) (s : State) : State :=
  s.updPart p fun t => { t with decision := some d, segment := some g, target := target }

/-- Step 5 or 6: a claiming entry denies the port (R59); a granting entry is checked against the direction (R61). -/
def accessStep (p : Port) (i : EntryIdx) (e : Entry) (claim : Bool) (s : State) : Judged :=
  if claim then addressViolation p i e .portDenied none s
  else if (e.access.get p).allows (s.part p).direction then (s, none)
  else addressViolation p i e .direction none s

/-- Step 7: a read part of an entry with a read list needs a usable pointer, which in mode AT_START must lie in the
list (R62). -/
def readListStep (p : Port) (i : EntryIdx) (e : Entry) (s : State) : Judged :=
  match (s.part p).direction, e.readList with
  | .read, some l =>
    match s.pointerFor p i with
    | none => addressViolation p i e .noPointer none s
    | some o =>
      if e.mode = .atStart ∧ inList (s.judged p) l o = false then addressViolation p i e .readWindow (some o) s
      else (s, none)
  | .read, none => (s, none)
  | .write, _ => (s, none)

/-- Step 8: one credit is taken from the entry's bucket in the captured bank, or the bucket at 0 is NO_CREDIT
(R63, R119). -/
def creditStep (p : Port) (i : EntryIdx) (e : Entry) (s : State) : Judged :=
  match e.creditLimit with
  | none => (s, none)
  | some _ =>
    match (tableGet (s.accounts.get (s.judgedId p)) i).bucket with
    | some (n + 1) => (s.updAccount (s.judgedId p) i fun a => { a with bucket := some n }, none)
    | some 0 => addressViolation p i e .noCredit none s
    | none => addressViolation p i e .noCredit none s

/-- Steps 5 to 8 for a part whose decision is an entry, claiming or granting (R59, R61 to R64). -/
def judgeEntry (p : Port) (i : EntryIdx) (claim : Bool) (s : State) : Judged :=
  let e := tableGet (s.judged p).entries i
  let s := setDecision p (.entry i) e.segment (e.target.getD e.matchAddr) s
  andThen (andThen (accessStep p i e claim s) (readListStep p i e)) (creditStep p i e)

/-- The 7-bit addresses refused before lookup (R56). -/
def reservedAddress (a : Addr) : Bool := (1 ≤ a.toNat && a.toNat ≤ 7) || (0x7C ≤ a.toNat && a.toNat ≤ 0x7F)

/-- Steps 2 to 8 for the address, kind and direction of the current part (R52, R54 to R64). -/
def judgeAddress (p : Port) (s : State) : Judged :=
  let t := s.part p
  let h := (s.judged p).header
  if t.kind = .seven ∧ t.address = 0 then
    if t.direction = .write ∧ h.generalCallAction = .forward then
      (setDecision p .generalCallForward h.generalCallSegment 0 s, none)
    else (s, some (.generalCall, none))
  else if t.kind = .seven ∧ reservedAddress t.address then (s, some (.noEntry, none))
  else
    match grantingEntry (s.judged p) p t.kind t.address with
    | some i => judgeEntry p i false s
    | none =>
      match claimingEntry (s.judged p) p t.kind t.address with
      | some i => judgeEntry p i true s
      | none =>
        if h.defaultAction = .forward then (setDecision p .defaultForward h.defaultSegment t.address s, none)
        else (s, some (.noEntry, none))

/-- The part is judged and answered: a refusal releases a segment kept across a repeated START and is recorded, a forward
decision goes to its segment (R29, R30, R43). -/
def settleAddress (p : Port) (s : State) : State :=
  match judgeAddress p s with
  | (s, some (r, o)) => refuseAddress p r o (releaseSegment p s)
  | (s, none) => forwardPart p s

/-- A part refused NO_ENTRY at the first byte of a 10-bit address (R38, R41). -/
def refuseFirstByte (p : Port) (s : State) : State := refuseAddress p .noEntry none (releaseSegment p s)

/-- The next byte of the copy of the response slot is presented; after its CRC byte, 0xFF for each further byte
(R165). -/
def presentSlotByte (p : Port) (s : State) : State :=
  match s.readback.get p with
  | [] => countByte p (presentByte p Config.slotFiller s)
  | b :: rest => countByte p (presentByte p b (s.setReadback p rest))

/-- A part to the management address on a port whose management is enabled: a segment kept across a repeated START is
released, the address acknowledged, and the session enters MGMT; a write part starts the frame parser on its address
byte, a read part takes a copy of the slot and presents its first byte (R29, R43, R46, R53, R160, R165). -/
def enterManagement (p : Port) (b : Byte) (s : State) : State :=
  let s := releaseWith p .ack (releaseSegment p s)
  let s := (s.updPart p fun t => { t with decision := some .management }).setSessionState p .mgmt
  match byteDirection b with
  | .write => s.updParser p fun _ => { freshParser with running := crc8Byte crc8Init b }
  | .read => presentSlotByte p (s.setReadback p (slotFrame b (s.slot.get p)))

/-- A part to the management address on a port whose management is disabled: NACK, DISCARD, no record (R43, R53). -/
def discardManagement (p : Port) (s : State) : State :=
  enterDiscard p (releaseWith p .nack
    ((releaseSegment p s).updPart p fun t => { t with decision := some .management }))

/-- A new part begins at an address byte: the first of the session captures the active bank (R26, R28, R71). -/
def beginPart (p : Port) (b : Byte) (s : State) : State :=
  (captureBank p s).updPart p fun _ => { noPart with direction := byteDirection b }

/-- The kind and upstream-visible address of the part (R52). -/
def setAddress (p : Port) (kind : AddrKind) (a : Addr) (s : State) : State :=
  s.updPart p fun t => { t with kind := kind, address := a }

/-- A 7-bit address byte is judged inside its hold (R29). -/
def sevenBitAddress (p : Port) (b : Byte) (s : State) : State :=
  let s := beginHold p (setAddress p .seven (addr7 (addressBits b)) s)
  if addr7 (addressBits b) = s.managementAddress then
    if s.straps.mgmten.get p then enterManagement p b s else discardManagement p s
  else settleAddress p s

/-- The first byte 11110xx0 of a 10-bit write address: acknowledged locally and held, or refused NO_ENTRY
(R38, R57). -/
def tenBitWriteFirst (p : Port) (b : Byte) (s : State) : State :=
  let s := setAddress p .ten (addr10 (highBits b) 0) s
  if firstByteAnswer (s.judged p) p (highBits b) then
    driveNinth p .ack (s.updPart p fun t => { t with held := some b })
  else refuseFirstByte p s

/-- The second byte of a 10-bit write address: the full address is judged inside the hold that begins here; the held
first byte is cleared (R29, R38). -/
def tenBitWriteSecond (p : Port) (first b : Byte) (s : State) : State :=
  settleAddress p (beginHold p
    ((setAddress p .ten (addr10 (highBits first) b) s).updPart p fun t => { t with held := none }))

/-- The first byte 11110xx1 of a 10-bit read: a read of the remembered 10-bit address with these high bits, or refused
NO_ENTRY, inside the hold that begins here (R41, R47). -/
def tenBitRead (p : Port) (b : Byte) (s : State) : State :=
  let refusal := refuseFirstByte p (beginHold p (setAddress p .ten (addr10 (highBits b) 0) s))
  match (s.session.get p).remembered with
  | some r =>
    if addrHigh r.address = highBits b then settleAddress p (beginHold p (setAddress p .ten r.address s)) else refusal
  | none => refusal

end Sys2Proof.Machine
end

