-- ==== Sys2Proof/Machine/Relay.lean ====
section
/-!
DEFINITION. The relay and the data-phase checks (02_sessions_and_the_relay.md 2.4 to 2.6, 04_data_phase_enforcement.md):
write bytes, read requests, the remembered pointer, refusals and cuts.
-/

namespace Sys2Proof.Machine

/-- The part ends with a NACK upstream and the STOP of a release downstream, into DISCARD (R31, R33, R90). -/
def endWithNack (p : Port) (s : State) : State := enterDiscard p (releaseSegment p (releaseWith p .nack s))

/-- The outcome of the data checks on one byte: the state, and whether a REFUSE entry's check failed (R84, R89). -/
abbrev Checked := State × Bool

/-- One data check of an entry that failed with a reason and offset: the violation is counted, the part's record is made
if it has made none, with outcome CUT or PASSED by the action, and under REFUSE the judgement of the byte ends (R92). -/
def dataViolation (p : Port) (i : EntryIdx) (e : Entry) (r : Reason) (offset : Option Half) (s : State) : Checked :=
  match e.action with
  | .refuse => (makeRecord p r .cut offset (countViolation p i s), true)
  | .logOnly => (makeRecord p r .passed offset (countViolation p i s), false)

/-- The next check is made unless this one refused the byte (R84, R89). -/
def andCheck (x : Checked) (f : State → Checked) : Checked := if x.2 then x else f x.1

/-- A check of an offset against a list, when both are there (R80, R81, R86). -/
def windowCheck (p : Port) (i : EntryIdx) (e : Entry) (r : Reason) (l : Option WindowList) (offset : Option Half)
    (s : State) : Checked :=
  match l, offset with
  | some l, some o => if inList (s.judged p) l o then (s, false) else dataViolation p i e r (some o) s
  | _, _ => (s, false)

/-- A length check: found when the length count, before this byte, equals the limit (R83, R88). -/
def lengthCheck (p : Port) (i : EntryIdx) (e : Entry) (r : Reason) (limit : Option Byte) (offset : Option Half)
    (s : State) : Checked :=
  match limit with
  | some l => if (s.part p).length = l.toNat then dataViolation p i e r offset s else (s, false)
  | none => (s, false)

/-- A list in force in one window mode only (R7). -/
def listIn (m : WindowMode) (e : Entry) (l : Option WindowList) : Option WindowList := if e.mode = m then l else none

/-! ## Write bytes -/

/-- The Segment Controller is asked to drive bytes, in order, inside the hold of the last one (R32, R37, R97). -/
def driveBytes (p : Port) (b : Byte) (rest : List Byte) (s : State) : State :=
  match (s.session.get p).owned with
  | none => s
  | some g => s.updSeg g fun c => { c with act := some (.send b rest) }

/-- The checks of the last sub-address byte: the AT_START window check on the sub-address (R80, R84). -/
def subAddressChecks (p : Port) (i : EntryIdx) (e : Entry) (s : State) : Checked :=
  windowCheck p i e .writeWindow (listIn .atStart e e.writeList) (some (subAddress (s.part p).sub)) s

/-- The checks of a write data byte after the sub-address: EVERY_BYTE window, then length (R81, R83, R84). -/
def writeDataChecks (p : Port) (i : EntryIdx) (e : Entry) (s : State) : Checked :=
  let o := s.pointerFor p i
  andCheck (windowCheck p i e .writeWindow (listIn .everyByte e e.writeList) o s)
    (lengthCheck p i e .writeLength e.writeLimit (if e.width = .w0 then none else o))

/-- A checked write byte is counted, and then driven with a held byte before it, or refused (R26, R32, R33, R37, R90). -/
def finishWriteByte (p : Port) (b : Byte) (held : Option Byte) (x : Checked) : State :=
  let s := countWriteByte p x.1
  let s := s.updPart p fun t => { t with held := none }
  if x.2 then endWithNack p s
  else
    match held with
    | some h => driveBytes p h [b] s
    | none => driveBytes p b [] s

/-- One more sub-address byte is gathered (R25, R73, R74). -/
def gatherByte (p : Port) (b : Byte) (s : State) : State := s.updPart p fun t => { t with sub := t.sub ++ [b] }

/-- The first sub-address byte of a width-2 entry: acknowledged locally, held, nothing driven, no hold (R37, R74). -/
def holdFirstByte (p : Port) (b : Byte) (s : State) : State :=
  driveNinth p .ack (countWriteByte p ((gatherByte p b s).updPart p fun t => { t with held := some b }))

/-- A write data byte that completes in WRITE (R32, R33, R37, R73, R74, R84). -/
def relayWriteByte (p : Port) (b : Byte) (s : State) : State :=
  match Decision.entry? (s.part p).decision with
  | none => finishWriteByte p b none (beginHold p s, false)
  | some i =>
    let e := tableGet (s.judged p).entries i
    let n := (s.part p).sub.length
    if n + 2 = e.width.bytes then holdFirstByte p b s
    else if n + 1 = e.width.bytes then
      finishWriteByte p b (s.part p).held (subAddressChecks p i e (gatherByte p b (beginHold p s)))
    else finishWriteByte p b none (writeDataChecks p i e (beginHold p s))

/-! ## The remembered pointer -/

/-- The pointer advances by one offset when it is bound to the part's entry (R77). -/
def advancePointer (p : Port) (s : State) : State :=
  match Decision.entry? (s.part p).decision with
  | none => s
  | some i =>
    match s.pointerFor p i with
    | none => s
    | some o => s.updSession p fun e => { e with pointer := some ⟨i, nextOffset (s.width p) o⟩ }

/-- The target acknowledged the last byte driven of a write part: the sub-address is then complete and sets the pointer,
or a data byte after it advances the pointer (R73, R74, R76, R77). No data byte has completed while the length count is
0. -/
def writeAcknowledged (p : Port) (s : State) : State :=
  match Decision.entry? (s.part p).decision with
  | none => s
  | some i =>
    if s.width p ≠ .w0 ∧ (s.part p).length = 0 then
      s.updSession p fun e => { e with pointer := some ⟨i, subAddress e.part.sub⟩ }
    else advancePointer p s

/-! ## Read requests -/

/-- The Segment Controller clocks the ninth bit of the last byte received, if it is still owed (R34 to R36, R97). -/
def clockNinth (g : SegId) (a : Ack) (s : State) : State :=
  s.updSeg g fun c => if c.ninthOwed then { c with ninthOwed := false, ninthSent := some a } else c

/-- The checks of a read request: EVERY_BYTE window, then length (R86 to R89). -/
def readChecks (p : Port) (s : State) : Checked :=
  match Decision.entry? (s.part p).decision with
  | none => (s, false)
  | some i =>
    let e := tableGet (s.judged p).entries i
    let o := s.pointerFor p i
    andCheck (windowCheck p i e .readWindow (listIn .everyByte e e.readList) o s)
      (lengthCheck p i e .readLength e.readLimit o)

/-- A cut read ends upstream: the segment is released with its STOP, the filler byte is presented as the byte asked for,
and the session enters FILL (R36, R91). -/
def finishCut (p : Port) (g : SegId) (s : State) : State :=
  enterFill p (releaseHold p (presentFiller p (releaseSegment p (clockNinth g .nack s))))

/-- A request for a byte, inside the hold it begins: a byte that passes has the ninth bit of the byte before clocked as
ACK and is fetched; a refused one cuts the part, a refused byte 0 after it is clocked in (R34, R36, R89, R91).
`first`: the request the address acknowledge makes. -/
def requestByte (p : Port) (g : SegId) (first : Bool) (s : State) : State :=
  let x := readChecks p (beginHold p s)
  if x.2 then
    if first then x.1.updSeg g fun c => { c with act := some (.receive true) } else finishCut p g x.1
  else (clockNinth g .ack x.1).updSeg g fun c => { c with act := some (.receive false) }

/-- A byte is clocked in from the target: the pointer advances; it is presented upstream and counted, its ninth bit kept
owed until the upstream one is known; byte 0 of a part cut there is not presented (R34, R36, R71, R77). -/
def receiveByte (p : Port) (g : SegId) (b : Byte) (cut : Bool) (s : State) : State :=
  let s := (advancePointer p s).updSeg g fun c => { c with act := none, ninthOwed := true }
  if cut then finishCut p g s
  else
    releaseHold p ((countByte p (presentByte p b s)).updPart p fun t => { t with length := min 256 (t.length + 1) })

/-- The target acknowledged the whole address: a hit for an entry decision, ACK upstream, a 10-bit write address is
remembered, and the part enters WRITE, or READ with its request for byte 0 (R31, R34, R40, R68). -/
def addressAcknowledged (p : Port) (g : SegId) (s : State) : State :=
  let s :=
    match Decision.entry? (s.part p).decision with
    | some i => countHit p i s
    | none => s
  let s := releaseWith p .ack (s.updSeg g fun c => { c with act := none })
  match (s.part p).direction with
  | .write =>
    let s := s.setSessionState p .write
    match (s.part p).kind with
    | .ten => s.updSession p fun e => { e with remembered := some ⟨e.part.address, g⟩ }
    | .seven => s
  | .read => requestByte p g true ((s.setSessionState p .read).updUpi p fun u => { u with phase := .send })

end Sys2Proof.Machine
end

