-- ==== Sys2Proof/Machine/Banks.lean ====
section
/-!
DEFINITION. The Bank Controller (07_bank_staging_and_commit.md): the commit checks of R17 to R22, the swap (R139), a failed
validation (R137), and the reload (R132).
-/

namespace Sys2Proof.Machine

/-! ## The per-entry commit checks (R19 to R21) -/

/-- The 7-bit addresses a valid entry may use (R19). -/
def usableAddress (a : Addr) : Bool := 0x08 ≤ a.toNat && a.toNat ≤ 0x77

/-- RESERVED_ADDRESS fails, against the management address in force (R19). -/
def reservedAddressFails (management : Addr) (e : Entry) : Bool :=
  e.kind = .seven &&
    (!usableAddress e.matchAddr || e.matchAddr = management ||
      match e.target with
      | some t => t.toNat ≤ 0x7F && !usableAddress t
      | none => false)

/-- KIND_MISMATCH fails (R19). -/
def kindMismatchFails (e : Entry) : Bool :=
  e.kind = .seven &&
    match e.target with
    | some t => 0x7F < t.toNat
    | none => false

/-- The lists of an entry that are present, the write list first (R20). -/
def Entry.lists (e : Entry) : List WindowList := e.writeList.toList ++ e.readList.toList

/-- WIDTH_LIST fails (R20). -/
def widthListFails (e : Entry) : Bool := !e.lists.isEmpty && e.width = .w0

/-- LIST_BOUNDS fails (R20). -/
def listBoundsFails (e : Entry) : Bool := e.lists.any fun l => 256 < l.first.toNat + l.count.toNat

/-- The indices of the windows of a list, in its order (R8). -/
def listIndices (l : WindowList) : List Nat := (List.range l.count.toNat).map (l.first.toNat + ·)

/-- The first window of a list that reaches beyond 0xFF (R20). -/
def highWindow (k : Bank) (l : WindowList) : Option Nat :=
  (listIndices l).find? fun j =>
    match k.windows[j]? with
    | some w => 0xFF < w.high.toNat
    | none => false

/-- The index WINDOW_VALUE reports, if it fails (R20). -/
def windowValueIndex (k : Bank) (e : Entry) : Option Nat :=
  if e.width = .w1 then e.lists.findSome? (highWindow k) else none

/-- The later window of the first pair of a list that is out of order (R20). -/
def unorderedWindow (k : Bank) (l : WindowList) : Option Nat :=
  (listIndices l).tail.find? fun j =>
    match k.windows[j - 1]?, k.windows[j]? with
    | some w, some v => v.low.toNat ≤ w.high.toNat
    | _, _ => false

/-- The index LIST_ORDER reports, if it fails (R20). -/
def listOrderIndex (k : Bank) (e : Entry) : Option Nat := e.lists.findSome? (unorderedWindow k)

/-- REFILL_MISSING fails (R21). -/
def refillMissingFails (e : Entry) : Bool :=
  match e.creditLimit with
  | some _ => e.creditRefill = 0
  | none => e.creditRefill ≠ 0

/-- A failure that reports an index. -/
def failWith (r : CommitReason) (i : Nat) : Option CommitFailure := some ⟨r, BitVec.ofNat 16 i⟩

/-- The per-entry checks of a valid entry, in the order of R17; the first that fails. -/
def entryFailure (management : Addr) (k : Bank) (i : EntryIdx) : Option CommitFailure :=
  let e := tableGet k.entries i
  if !e.valid then none
  else if reservedAddressFails management e then failWith .reservedAddress i.val
  else if kindMismatchFails e then failWith .kindMismatch i.val
  else if widthListFails e then failWith .widthList i.val
  else if listBoundsFails e then failWith .listBounds i.val
  else
    match windowValueIndex k e with
    | some j => failWith .windowValue j
    | none =>
      match listOrderIndex k e with
      | some j => failWith .listOrder j
      | none => if refillMissingFails e then failWith .refillMissing i.val else none

/-! ## DUPLICATE and the order of the checks (R17, R18, R22) -/

/-- Two entries that may not stand together: both valid, of one kind and match address, both granting the same port an
access (R22). -/
def Entry.clashes (e f : Entry) : Bool :=
  e.valid && f.valid && e.kind = f.kind && e.matchAddr = f.matchAddr &&
    ((e.access.up0 ≠ .none && f.access.up0 ≠ .none) || (e.access.up1 ≠ .none && f.access.up1 ≠ .none))

/-- Some entry of lower index clashes with entry `j` (R22). -/
def clashesBelow (k : Bank) (j : EntryIdx) : Bool :=
  (List.finRange 128).any fun i =>
    decide (i.val < j.val) && (tableGet k.entries i).clashes (tableGet k.entries j)

/-- The index DUPLICATE reports, if it fails (R22). -/
def duplicateIndex (k : Bank) : Option EntryIdx := (List.finRange 128).find? (clashesBelow k)

/-- The first commit check that fails (R17): CHECKSUM, the per-entry checks by entry, DUPLICATE. -/
def commitFailure (management : Addr) (expected : Half) (k : Bank) : Option CommitFailure :=
  if bankCrc k ≠ expected then some ⟨.checksum, 0xFFFF⟩
  else
    match (List.finRange 128).findSome? (entryFailure management k) with
    | some f => some f
    | none =>
      match duplicateIndex k with
      | some j => failWith .duplicate j.val
      | none => none

/-! ## Validation and the swap -/

/-- The swap of a passing commit (R117, R118, R121, R137, R139). -/
def swapBanks (j : CommitJob) (s : State) : State :=
  let k := s.shadowId
  let s := s.updBc fun c =>
    { c with
      active := k, shadow := if c.holders.get c.active = 0 then .reloading else .draining, dirty := false,
      commit := none }
  let s := (s.setAccounts k (freshAccounts (s.bank.get k))).setRefill (some (s.bank.get k).header.refillTick)
  latchCommitDone j.port (finishCommand j.port .ok (be16 (s.bank.get k).header.tag) s)

/-- A validation that fails: the shadow is EDITABLE again and the COMMIT completes with the failing check (R137). -/
def failCommit (j : CommitJob) (f : CommitFailure) (s : State) : State :=
  finishCommand j.port .commitFailed (CommitReason.code f.reason :: be16 f.index)
    (s.updBc fun c => { c with shadow := .editable, commit := none })

/-- The validation completion event (R136). -/
def completeValidation (s : State) : State :=
  match s.bc.commit with
  | none => s
  | some j =>
    match commitFailure s.managementAddress j.expected (s.bank.get s.shadowId) with
    | some f => failCommit j f s
    | none => swapBanks j s

/-! ## Reload -/

/-- A reload begins (R132, R133, R134). -/
def beginReload (s : State) : State := s.updBc fun c => { c with shadow := .reloading }

/-- A SHADOW_RELOAD of this port, if it is what the port waits for, completes with OK (R132, R168). -/
def completeReloadJob (p : Port) (s : State) : State :=
  if s.job.get p = some .shadowReload then finishCommand p .ok [] s else s

/-- The reload completion event: the shadow is a copy of the active bank (R132). The copy takes time, and no rule says what
the shadow holds meanwhile: until this event it keeps its old contents, and no command reads them (R131; log entry 30). -/
def completeReload (s : State) : State :=
  if s.bc.shadow = .reloading then
    completeReloadJob .up1 (completeReloadJob .up0
      ((s.updBank s.shadowId fun _ => s.bank.get s.bc.active).updBc fun c =>
        { c with shadow := .editable, dirty := false }))
  else s

/-- The management session ends by a timeout: an EDITABLE, dirty shadow is reloaded (R134). -/
def discardEdits (s : State) : State := if s.bc.shadow = .editable ∧ s.bc.dirty then beginReload s else s

end Sys2Proof.Machine
end

