-- ==== Sys2Proof/Machine/Commands.lean ====
section
/-!
DEFINITION. The Management Agent's execution of a command (R163, R166, R169 to R177): the catalogue, the checks in their
order, and what each command does.
-/

namespace Sys2Proof.Machine

/-! ## The catalogue (R188, 09_the_management_channel.md 9.7) -/

inductive MgmtCommand where
  | sessionOpen | sessionClose | statusRead | identRead | settingsRead | violationRead | headerRead | entryRead
  | windowRead | counterRead | segmentStatus | headerWrite | entryWrite | entryClear | windowWrite | shadowReload
  | commit | lockdown | violationAck | countersClear | settingsWrite | segmentDisable | segmentEnable | segmentRelease
  | abortAll
deriving DecidableEq, Repr

/-- Command codes (R188). -/
def MgmtCommand.code : MgmtCommand → Byte
  | .sessionOpen => 0x01
  | .sessionClose => 0x02
  | .statusRead => 0x03
  | .identRead => 0x04
  | .settingsRead => 0x05
  | .violationRead => 0x06
  | .headerRead => 0x10
  | .entryRead => 0x11
  | .windowRead => 0x12
  | .counterRead => 0x13
  | .segmentStatus => 0x14
  | .headerWrite => 0x21
  | .entryWrite => 0x22
  | .entryClear => 0x23
  | .windowWrite => 0x24
  | .shadowReload => 0x28
  | .commit => 0x29
  | .lockdown => 0x2A
  | .violationAck => 0x30
  | .countersClear => 0x31
  | .settingsWrite => 0x32
  | .segmentDisable => 0x40
  | .segmentEnable => 0x41
  | .segmentRelease => 0x42
  | .abortAll => 0x4F

/-- Every command of the catalogue. -/
def catalogue : List MgmtCommand :=
  [.sessionOpen, .sessionClose, .statusRead, .identRead, .settingsRead, .violationRead, .headerRead, .entryRead,
   .windowRead, .counterRead, .segmentStatus, .headerWrite, .entryWrite, .entryClear, .windowWrite, .shadowReload,
   .commit, .lockdown, .violationAck, .countersClear, .settingsWrite, .segmentDisable, .segmentEnable, .segmentRelease,
   .abortAll]

/-- The command a command byte names (R163, R188). -/
def commandOfByte (b : Byte) : Option MgmtCommand := catalogue.find? fun c => c.code = b

/-- The argument lengths the catalogue gives a command (R163). -/
def MgmtCommand.lengths : MgmtCommand → List Nat
  | .statusRead | .headerRead | .segmentStatus | .entryClear | .violationAck | .segmentDisable | .segmentEnable
  | .segmentRelease => [1]
  | .entryRead | .windowRead | .counterRead | .commit => [2]
  | .headerWrite => [8]
  | .settingsWrite => [16]
  | .entryWrite => [17]
  | .windowWrite => [5, 9, 13, 17, 21, 25, 29]
  | .sessionOpen | .sessionClose | .identRead | .settingsRead | .violationRead | .shadowReload | .lockdown
  | .countersClear | .abortAll => [0]

/-- The commands of the session holder (09_the_management_channel.md 9.7). -/
def MgmtCommand.needsSession : MgmtCommand → Bool
  | .headerWrite | .entryWrite | .entryClear | .windowWrite | .shadowReload | .commit | .lockdown | .violationAck
  | .countersClear | .segmentDisable | .segmentEnable | .segmentRelease | .settingsWrite | .abortAll => true
  | .sessionOpen | .sessionClose | .statusRead | .identRead | .settingsRead | .violationRead | .headerRead | .entryRead
  | .windowRead | .counterRead | .segmentStatus => false

/-! ## The management session (R166, R167) -/

/-- The idle timer starts with the session idle timeout in force (R167). -/
def startIdle (s : State) : State := s.setIdle (some s.settings.idleTimeout)

/-- A frame of the holder restarts the idle timer (R163, R167). -/
def touchIdle (p : Port) (s : State) : State := if s.holder = some p then startIdle s else s

/-- SESSION_OPEN (R166). -/
def openSession (p : Port) (s : State) : State :=
  match s.holder with
  | some q =>
    if q = p then finishCommand p .ok [] (startIdle s) else finishCommand p .owned [Port.code q] s
  | none => finishCommand p .ok [] (startIdle (s.setHolder (some p)))

/-- SESSION_CLOSE: the shadow is kept as it stands (R134, R166). -/
def closeSession (p : Port) (s : State) : State :=
  if s.holder = some p then finishCommand p .ok [] ((s.setHolder none).setIdle none)
  else finishCommand p .noSession [] s

/-- The session idle timer expires (R134, R167). -/
def expireSession (s : State) : State := discardEdits ((s.setHolder none).setIdle none)

/-! ## Reads that need no session (R152, R169 to R171) -/

/-- The payload of IDENT_READ (R169, R191). -/
def identPayload (s : State) : List Byte :=
  be16 Config.vendorCode ++ be16 Config.deviceCode ++ [Config.revision] ++ be16 (s.bank.get s.bc.active).header.tag

/-- The payload of STATUS_READ for a port (R169, R191). -/
def statusPayload (p : Port) (s : State) : List Byte :=
  [BankId.code s.bc.active] ++ be16 (s.bank.get s.bc.active).header.tag ++
    [ShadowState.code s.bc.shadow, (0#6 ++ bit s.bc.locked ++ bit s.bc.dirty : BitVec (6 + 1 + 1)),
     portCode s.holder] ++ segStates s ++
    [BitVec.ofNat 8 s.queue.records.length, flagsByte (s.flags.get p)]

/-- STATUS_READ(clear): the flags are reported, and then cleared with clear yes (R155, R169). -/
def readStatus (p : Port) (clear : Byte) (s : State) : State :=
  match yesNoOfByte clear with
  | none => finishCommand p .range [] s
  | some c => (if c then clearPortFlags p else id) (finishCommand p .ok (statusPayload p s) s)

/-- The payload of VIOLATION_READ (R152, R191). -/
def violationPayload (s : State) : List Byte :=
  [BitVec.ofNat 8 s.queue.records.length] ++ be16 s.queue.overflow ++ (s.queue.records.take 2).flatMap recordImage

/-- The item of the selected bank is returned, or the select, or the shadow, refuses (R131, R170). -/
def readBank (p : Port) (select : Byte) (item : Bank → Option (List Byte)) (s : State) : State :=
  let serve := fun k =>
    match item (s.bank.get k) with
    | some bytes => finishCommand p .ok bytes s
    | none => finishCommand p .range [] s
  match yesNoOfByte select with
  | none => finishCommand p .range [] s
  | some false => serve s.bc.active
  | some true =>
    if s.bc.locked then finishCommand p .locked [] s
    else if s.bc.shadow ≠ .editable then finishCommand p .busy [] s
    else serve s.shadowId

/-- The payload of COUNTER_READ for an entry of a bank (R171, R191). -/
def accountPayload (s : State) (k : BankId) (i : EntryIdx) : List Byte :=
  be32 (tableGet (s.accounts.get k) i).hits ++ be16 (tableGet (s.accounts.get k) i).violations

/-- The payload of COUNTER_READ of kind SEGMENTS (R171, R191). -/
def segmentsPayload (s : State) : List Byte :=
  let c := s.segCounters
  (be32 c.seg0.grants ++ be32 c.seg1.grants ++ be32 c.seg2.grants ++ be32 c.seg3.grants) ++
    (be16 c.seg0.recoveries ++ be16 c.seg1.recoveries ++ be16 c.seg2.recoveries ++ be16 c.seg3.recoveries) ++
    (be16 c.seg0.quarantines ++ be16 c.seg1.quarantines ++ be16 c.seg2.quarantines ++ be16 c.seg3.quarantines)

/-- The payload of COUNTER_READ of kind PORTS (R171, R191). -/
def portsPayload (s : State) : List Byte :=
  let c := s.portCounters
  be16 c.up0.crcErrors ++ be16 c.up0.abandoned ++ be16 c.up1.crcErrors ++ be16 c.up1.abandoned

/-- The counters a kind and an index name (R171): 0 ENTRY, 1 SEGMENTS, 2 PORTS, 3 SHADOW_ENTRY. -/
def counterPayload (kind index : Byte) (s : State) : Option (List Byte) :=
  match kind.toNat with
  | 0 => (entryIdxOfByte index).map (accountPayload s s.bc.active)
  | 1 => if index = 0 then some (segmentsPayload s) else none
  | 2 => if index = 0 then some (portsPayload s) else none
  | 3 => (entryIdxOfByte index).map (accountPayload s s.shadowId)
  | _ => none

/-- The payload of SEGMENT_STATUS (R171, R191). -/
def segmentPayload (g : SegId) (s : State) : List Byte :=
  let c := s.seg.get g
  let n := s.segCounters.get g
  [SegState.code c.state, portCode c.owner, BitVec.ofNat 8 c.waiters.length, portCode c.waiters[0]?,
   portCode c.waiters[1]?, QuarantineReason.code c.reason, if c.disablePending then 1 else 0, Speed.code c.speed,
   CloseStep.code c.step, BitVec.ofNat 8 c.pulses] ++ be32 n.grants ++ be16 n.recoveries ++ be16 n.quarantines

/-- A read that returns a payload, or RANGE without one. -/
def answerRead (p : Port) (payload : Option (List Byte)) (s : State) : State :=
  match payload with
  | some bytes => finishCommand p .ok bytes s
  | none => finishCommand p .range [] s

/-! ## Staging commands (R129, R130, R133, R135, R142, R173, R174) -/

/-- The Bank Controller answers LOCKED under lockdown and BUSY outside EDITABLE, and otherwise takes the command
(R129). -/
def staged (p : Port) (take : State → State) (s : State) : State :=
  if s.bc.locked then finishCommand p .locked [] s
  else if s.bc.shadow ≠ .editable then finishCommand p .busy [] s
  else take s

/-- An edit: with its field checks passed the shadow is changed and dirty, and otherwise the answer is RANGE
(R13, R130). -/
def editShadow (p : Port) (edit : Option (Bank → Bank)) (s : State) : State :=
  match edit with
  | some f => finishCommand p .ok [] ((s.updBank s.shadowId f).updBc fun c => { c with dirty := true })
  | none => finishCommand p .range [] s

/-- HEADER_WRITE's edit (R15). -/
def headerEdit (image : List Byte) : Option (Bank → Bank) :=
  (headerOfImage image).map fun h k => { k with header := h }

/-- ENTRY_WRITE's edit (R14). -/
def entryEdit (index : Byte) (image : List Byte) : Option (Bank → Bank) :=
  match entryIdxOfByte index, entryOfImage image with
  | some i, some e => some fun k => { k with entries := tableSet k.entries i e }
  | _, _ => none

/-- ENTRY_CLEAR's edit (R16). -/
def clearEdit (index : Byte) : Option (Bank → Bank) :=
  (entryIdxOfByte index).map fun i k => { k with entries := tableSet k.entries i clearedEntry }

/-- Windows stored at consecutive indices. -/
def storeWindows (i : Nat) (l : List Window) (v : Vector Window 256) : Vector Window 256 :=
  match l with
  | [] => v
  | w :: rest => storeWindows (i + 1) rest (if h : i < 256 then v.set i w h else v)

/-- WINDOW_WRITE's edit (R15). -/
def windowEdit (first : Byte) (images : List Byte) : Option (Bank → Bank) :=
  match windowsOfImages images with
  | some l =>
    if first.toNat + l.length ≤ 256 then
      some fun k => { k with windows := storeWindows first.toNat l k.windows }
    else none
  | none => none

/-- SHADOW_RELOAD taken in EDITABLE (R133). -/
def takeReload (p : Port) (s : State) : State := startLong p .shadowReload (beginReload s)

/-- COMMIT taken in EDITABLE (R135). -/
def takeCommit (p : Port) (expected : Half) (s : State) : State :=
  startLong p .commit (s.updBc fun c =>
    { c with shadow := .validating, commit := some { port := p, expected := expected, running := crc16Init } })

/-- LOCKDOWN taken in EDITABLE (R142). -/
def takeLockdown (p : Port) (s : State) : State :=
  finishCommand p .ok [] (s.updBc fun c => { c with locked := true, shadow := .locked })

/-! ## Queue, counters and settings (R124, R153, R172, R175, R180) -/

/-- VIOLATION_ACK(n) (R153, R172). -/
def ackViolations (p : Port) (n : Byte) (s : State) : State :=
  finishCommand p .ok [BitVec.ofNat 8 (min n.toNat s.queue.records.length)] (removeViolations n.toNat s)

/-- An account with its counters zeroed, its bucket kept (R124). -/
def clearCounts (a : EntryAccount) : EntryAccount := { a with hits := 0, violations := 0 }

/-- COUNTERS_CLEAR (R124). -/
def clearCounters (s : State) : State :=
  { s.setAccounts s.bc.active ((s.accounts.get s.bc.active).map clearCounts) with
    segCounters := .all zeroSegCounters, portCounters := .both zeroPortCounters }

/-- SETTINGS_WRITE: the record is replaced whole, and both alert lines are evaluated (R156, R157, R180). -/
def writeSettings (p : Port) (record : List Byte) (s : State) : State :=
  match settingsOfBytes record with
  | some r => finishCommand p .ok [] (evalAlerts (s.setSettings r))
  | none => finishCommand p .range [] s

/-! ## Segment commands (R109 to R111, R176) -/

/-- A segment command with its segment argument, or RANGE (R176). -/
def onSegment (p : Port) (segment : Byte) (take : SegId → State → State) (s : State) : State :=
  match segOfByte segment with
  | some g => take g s
  | none => finishCommand p .range [] s

/-- SEGMENT_DISABLE (R109): complete at once for a segment it finds IDLE, QUARANTINED or DISABLED, and long for one it
finds OWNED or CLOSING. -/
def disableSegment (p : Port) (g : SegId) (s : State) : State :=
  match (s.seg.get g).state with
  | .idle => finishCommand p .ok [] (applyDisable g s)
  | .quarantined => finishCommand p .ok [] (applyDisable g s)
  | .disabled => finishCommand p .ok [] (applyDisable g s)
  | .closing => startLong p (.segmentDisable g) (applyDisable g s)
  | .owned => startLong p (.segmentDisable g) (applyDisable g s)

/-- SEGMENT_ENABLE (R110). -/
def enableSegment (p : Port) (g : SegId) (s : State) : State :=
  if (s.seg.get g).state = .disabled then startLong p (.segmentEnable g) (startClose g s)
  else finishCommand p .state [] s

/-- SEGMENT_RELEASE (R111). -/
def reopenSegment (p : Port) (g : SegId) (s : State) : State :=
  if (s.seg.get g).state = .quarantined then startLong p (.segmentRelease g) (startClose g s)
  else finishCommand p .state [] s

/-! ## ABORT_ALL (R49, R112, R177) -/

/-- The parts ABORT_ALL aborts, 0 to 2 (R177). -/
def relayingParts (s : State) : Nat := (s.relaying .up0).toNat + (s.relaying .up1).toNat

/-- The segments ABORT_ALL gives up: those a session owns (R112). -/
def ownedSegments (s : State) : List SegId := (s.session.get .up0).owned.toList ++ (s.session.get .up1).owned.toList

/-- Both Session Engines are reached; with a part to abort in each, their order is free (R151; log entry 10). -/
def abortSessions (s : State) : State :=
  if s.relaying .up0 ∧ s.relaying .up1 then
    if Config.appendOrder s.choice then
      abortSession .up1 (abortSession .up0 { s with choice := s.choice + 1 })
    else abortSession .up0 (abortSession .up1 { s with choice := s.choice + 1 })
  else abortSession .up1 (abortSession .up0 s)

/-- ABORT_ALL (R177). -/
def abortAllParts (p : Port) (s : State) : State :=
  if ownedSegments s = [] then finishCommand p .ok (abortPayload (relayingParts s) (abortSessions s)) (abortSessions s)
  else startLong p (.abortAll (relayingParts s) (ownedSegments s)) (abortSessions s)

/-! ## Execution -/

/-- The effect of a command that has passed the checks of length and session (R163). -/
def perform (p : Port) (c : MgmtCommand) (args : List Byte) (s : State) : State :=
  let a := args.getD 0 0
  let b := args.getD 1 0
  match c with
  | .sessionOpen => openSession p s
  | .sessionClose => closeSession p s
  | .statusRead => readStatus p a s
  | .identRead => finishCommand p .ok (identPayload s) s
  | .settingsRead => finishCommand p .ok (settingsImage s.settings) s
  | .violationRead => finishCommand p .ok (violationPayload s) s
  | .headerRead => readBank p a (fun k => some (headerImage k.header)) s
  | .entryRead => readBank p a (fun k => (entryIdxOfByte b).map fun i => entryImage (tableGet k.entries i)) s
  | .windowRead => readBank p a (fun k => some (windowImage (tableGet k.windows (windowIdxOfByte b)))) s
  | .counterRead => answerRead p (counterPayload a b s) s
  | .segmentStatus => answerRead p ((segOfByte a).map fun g => segmentPayload g s) s
  | .headerWrite => staged p (editShadow p (headerEdit args)) s
  | .entryWrite => staged p (editShadow p (entryEdit a args.tail)) s
  | .entryClear => staged p (editShadow p (clearEdit a)) s
  | .windowWrite => staged p (editShadow p (windowEdit a args.tail)) s
  | .shadowReload => staged p (takeReload p) s
  | .commit => staged p (takeCommit p (halfOf a b)) s
  | .lockdown => staged p (takeLockdown p) s
  | .violationAck => ackViolations p a s
  | .countersClear => finishCommand p .ok [] (clearCounters s)
  | .settingsWrite => writeSettings p args s
  | .segmentDisable => onSegment p a (disableSegment p) s
  | .segmentEnable => onSegment p a (enableSegment p) s
  | .segmentRelease => onSegment p a (reopenSegment p) s
  | .abortAll => abortAllParts p s

/-- A command of the catalogue is executed at frame end: length, idle timer, session, its own checks (R163). -/
def runCommand (p : Port) (c : MgmtCommand) (args : List Byte) (s : State) : State :=
  if args.length ∈ c.lengths then
    let s := touchIdle p s
    if c.needsSession ∧ s.holder ≠ some p then finishCommand p .noSession [] s else perform p c args s
  else finishCommand p .badLength [] s

/-- A command byte and its arguments are executed at frame end (R163). -/
def runFrame (p : Port) (code : Byte) (args : List Byte) (s : State) : State :=
  match commandOfByte code with
  | some c => runCommand p c args s
  | none => finishCommand p .badCommand [] s

/-- A port whose frames the Management Agent takes now: management enabled, no command of the port in progress, no frame
of it begun (R159, R160, R162; log entry 11). -/
def State.takesFrame (s : State) (p : Port) : Bool :=
  s.straps.mgmten.get p && (s.job.get p).isNone && (s.parser.get p).state = .awaitCommand

/-- A management command as a whole: the frame that carries it has ended complete with a matching CRC (R163;
log entry 11). -/
def viaFrame (p : Port) (c : MgmtCommand) (args : List Byte) (s : State) : State :=
  if s.takesFrame p then runCommand p c args s else s

end Sys2Proof.Machine
end

