-- ==== Sys2Proof/Machine/Frames.lean ====
section
/-!
DEFINITION. The frame parsers (R160, R162) and the end of a write frame (R161).
-/

namespace Sys2Proof.Machine

/-- The parser keeps an argument byte, and awaits the CRC after the last one (R160). -/
def keepArgument (b : Byte) (r : Parser) : Parser :=
  { r with
    args := r.args ++ [b], running := crc8Byte r.running b,
    state := if r.args.length + 1 = r.length.toNat then .awaitCrc else .awaitArguments }

/-- A byte of a write part completes: the parser's next state and the ninth bit it returns (R160). `busy`: a command of
this port is in progress. -/
def parserByte (busy : Bool) (b : Byte) (r : Parser) : Parser × Ack :=
  match r.state with
  | .awaitCommand =>
    if busy then ({ r with state := .refused }, .nack)
    else ({ r with state := .awaitLength, command := b, running := crc8Byte r.running b }, .ack)
  | .awaitLength =>
    if b.toNat ≤ 32 then
      ({ r with
          state := if b = 0 then .awaitCrc else .awaitArguments, length := b, running := crc8Byte r.running b }, .ack)
    else ({ r with state := .overlength }, .nack)
  | .awaitArguments => (keepArgument b r, .ack)
  | .awaitCrc => ({ r with state := .complete, received := b }, .ack)
  | .complete => (r, .nack)
  | .overlength => (r, .nack)
  | .refused => (r, .nack)

/-- The parser takes a byte and the UPI drives its ninth bit without holding (R46, R160). -/
def parseByte (p : Port) (b : Byte) (s : State) : State :=
  let x := parserByte (s.job.get p).isSome b (s.parser.get p)
  driveNinth p x.2 (s.updParser p fun _ => x.1)

/-- The outcome of a write frame that ends with its parser as `r` (R161). -/
def frameOutcome (p : Port) (r : Parser) (s : State) : State :=
  match r.state with
  | .awaitCommand => s
  | .refused => s
  | .awaitLength => finishCommand p .badLength [] s
  | .awaitArguments => finishCommand p .badLength [] s
  | .awaitCrc => finishCommand p .badLength [] s
  | .overlength => finishCommand p .badLength [] s
  | .complete =>
    if r.received = r.running then runFrame p r.command r.args s
    else finishCommand p .badCrc [] (countCrcError p s)

/-- A write frame ends: the parser returns to AWAIT_COMMAND and its outcome is acted on (R161). -/
def endFrame (p : Port) (s : State) : State := frameOutcome p (s.parser.get p) (s.updParser p fun _ => freshParser)

/-- The end of a part is reported to the Management Agent: a write part in MGMT ends its frame (R46, R161). -/
def endPartFrame (p : Port) (s : State) : State :=
  if (s.session.get p).state = .mgmt ∧ (s.part p).direction = .write then endFrame p s else s

end Sys2Proof.Machine
end

