-- ==== Sys2Proof/Machine/LineEvents.lean ====
section
/-!
DEFINITION. The events of an upstream port's lines (R24): START, repeated START, STOP, address and data bytes, the ninth
bits of bytes sent, and SCL edges.
-/

namespace Sys2Proof.Machine

/-- Every meaning answers a next state. -/
abbrev Result := Host.Outcome State Fault Refusal

/-- The states in which a START or STOP can form (R42, R43). -/
def SessionState.open : SessionState → Bool
  | .address | .write | .read | .mgmt | .discard | .fill => true
  | .idle | .grantWait | .connect => false

/-- A session whose upstream clock is not held, so that its controller can form a START or STOP, clock bytes, or stop
(R24, R42, R43, R48). -/
def State.free (s : State) (p : Port) : Bool := (s.session.get p).state.open && !(s.upi.get p).hold

/-- The UPI receives the byte after a START or repeated START (R24). -/
def receiveByteNext (p : Port) (s : State) : State :=
  s.updUpi p fun _ => { phase := .receive, hold := false, shift := none, ninth := none }

/-! ## START and repeated START -/

/-- A repeated START ends the part and begins a new one in the session (R43, R46). -/
def restartPart (p : Port) (s : State) : State :=
  receiveByteNext p
    (((endPartFrame p s).updSession p fun e => { e with state := .address, part := noPart }).setReadback p [])

/-- A START in IDLE: ADDRESS, and the abandon timer starts (R27, R48). -/
def beginSession (p : Port) (s : State) : State :=
  receiveByteNext p (s.updSession p fun e => { e with state := .address, abandon := some (s.limits p).abandon })

/-- A repeated START acts in a session that is not IDLE and whose clock is free (R43). -/
def takeRestart (p : Port) (s : State) : State := if s.free p then restartPart p s else s

/-- START: in IDLE it begins a session, in a session it is a repeated START (R24, R27). -/
def takeStart (p : Port) (s : State) : State :=
  if (s.session.get p).state = .idle then beginSession p s else takeRestart p s

def execStart (p : Port) (s : State) : Result := .next (inService (takeStart p) s)

def execRepeatedStart (p : Port) (s : State) : Result := .next (inService (takeRestart p) s)

/-! ## STOP -/

/-- The session's record, its line and its copy of the slot as they are in IDLE (R25, R42). -/
def closeRecord (p : Port) (s : State) : State :=
  ((s.updSession p fun _ => idleSession).updUpi p fun _ => quietUpi).setReadback p []

/-- A STOP ends the session: an owned segment is released, a management frame ends, the captured bank is released
(R42, R46; log entry 21). -/
def stopSession (p : Port) (s : State) : State := closeRecord p (releaseBank p (endPartFrame p (releaseSegment p s)))

/-- A STOP acts in a session whose clock is free; in IDLE it does nothing (R27, R42). -/
def takeStop (p : Port) (s : State) : State := if s.free p then stopSession p s else s

def execStop (p : Port) (s : State) : Result := .next (inService (takeStop p) s)

/-! ## Bytes the controller sends -/

/-- A first address byte of a part: a new part, judged by its kind (R26, R28, R29, R38, R41). -/
def firstAddressByte (p : Port) (b : Byte) (s : State) : State :=
  let s := beginPart p b s
  if isTenBitFirst b then
    match byteDirection b with
    | .write => tenBitWriteFirst p b s
    | .read => tenBitRead p b s
  else sevenBitAddress p b s

/-- An address byte that completes in ADDRESS: the second byte of a 10-bit write address whose first is held, or the
first byte of a part (R26, R29, R38). -/
def takeAddressByte (p : Port) (b : Byte) (s : State) : State :=
  if (s.session.get p).state = .address then
    match (s.part p).held with
    | some first => tenBitWriteSecond p first b s
    | none => firstAddressByte p b s
  else s

def execAddressByte (p : Port) (b : Byte) (s : State) : Result := .next (inService (takeAddressByte p b) s)

/-- A data byte that completes upstream in a write part: relayed in WRITE, not acknowledged in DISCARD, handed to the
frame parser in MGMT; both counts of the part run in each (R26, R32, R44, R46, R71). -/
def takeDataByte (p : Port) (b : Byte) (s : State) : State :=
  if s.free p ∧ (s.part p).direction = .write then
    match (s.session.get p).state with
    | .write => relayWriteByte p b s
    | .discard => driveNinth p .nack (countWriteByte p s)
    | .mgmt => countWriteByte p (parseByte p b s)
    | .idle | .address | .grantWait | .connect | .read | .fill => s
  else s

def execDataByte (p : Port) (b : Byte) (s : State) : Result := .next (inService (takeDataByte p b) s)

/-! ## Ninth bits of the bytes sent -/

/-- The upstream controller asks for the next byte of a read part that sends (R34, R44, R45, R46, R165). -/
def askNext (p : Port) (s : State) : State :=
  match (s.session.get p).state with
  | .read =>
    match (s.session.get p).owned with
    | some g => requestByte p g false s
    | none => s
  | .fill => presentFiller p s
  | .discard => presentFiller p s
  | .mgmt => presentSlotByte p s
  | .idle | .address | .grantWait | .connect | .write => s

/-- The upstream controller ends a read by its NACK: SDA stays high, and in READ the NACK is clocked downstream
(R35, R44, R45, R165). A byte clocked in DISCARD is counted here, at its ninth bit (R44; log entry 14). -/
def endRead (p : Port) (s : State) : State :=
  let quiet := fun s : State => s.updUpi p fun u => { u with phase := .ended, shift := none }
  match (s.session.get p).state with
  | .read =>
    match (s.session.get p).owned with
    | some g => quiet (clockNinth g .nack s)
    | none => s
  | .fill => quiet s
  | .discard => quiet (countByte p s)
  | .mgmt => quiet s
  | .idle | .address | .grantWait | .connect | .write => s

/-- The ninth bit of a byte of a read part is known: in a part still sending it asks or ends, and after the NACK that
ended the read each byte clocked is counted (R35, R44, R45). -/
def takeReadNinth (p : Port) (act : State → State) (s : State) : State :=
  if s.free p ∧ (s.part p).direction = .read then
    match (s.upi.get p).phase with
    | .send => act s
    | .ended => countByte p s
    | .quiet | .receive => s
  else s

def execUpstreamReadAck (p : Port) (s : State) : Result := .next (inService (takeReadNinth p (askNext p)) s)

def execUpstreamReadNack (p : Port) (s : State) : Result := .next (inService (takeReadNinth p (endRead p)) s)

/-! ## Edges -/

/-- An edge of the upstream clock starts the abandon timer again (R48). -/
def restartAbandon (p : Port) (s : State) : State :=
  if s.free p then s.updSession p fun e => { e with abandon := some (s.limits p).abandon } else s

def execUpstreamSclEdge (p : Port) (_e : Edge) (s : State) : Result := .next (inService (restartAbandon p) s)

end Sys2Proof.Machine
end

