-- ==== Sys2Proof/Machine/BankEvents.lean ====
section
/-!
DEFINITION. The completion events of the Bank Controller (R132, R136).
-/

namespace Sys2Proof.Machine

def execValidationCompletion (s : State) : Result := .next (inService completeValidation s)

def execReloadCompletion (s : State) : Result := .next (inService completeReload s)

end Sys2Proof.Machine
end

