-- ==== Sys2Proof/Machine/ManagementReads.lean ====
section
/-!
DEFINITION. The management commands that need no session, each as the frame that carries it (log entry 11). What each does is in
Commands.lean.
-/

namespace Sys2Proof.Machine

/-- SESSION_OPEN (R166). -/
def execSessionOpen (p : Port) (s : State) : Result :=
  .next (inService (viaFrame p .sessionOpen []) s)

/-- SESSION_CLOSE (R134, R166). -/
def execSessionClose (p : Port) (s : State) : Result :=
  .next (inService (viaFrame p .sessionClose []) s)

/-- STATUS_READ (R155, R169). -/
def execStatusRead (p : Port) (clear : Byte) (s : State) : Result :=
  .next (inService (viaFrame p .statusRead [clear]) s)

/-- IDENT_READ (R169). -/
def execIdentRead (p : Port) (s : State) : Result :=
  .next (inService (viaFrame p .identRead []) s)

/-- SETTINGS_READ (R169, R179). -/
def execSettingsRead (p : Port) (s : State) : Result :=
  .next (inService (viaFrame p .settingsRead []) s)

/-- VIOLATION_READ (R152, R172). -/
def execViolationRead (p : Port) (s : State) : Result :=
  .next (inService (viaFrame p .violationRead []) s)

/-- HEADER_READ (R131, R170). -/
def execHeaderRead (p : Port) (select : Byte) (s : State) : Result :=
  .next (inService (viaFrame p .headerRead [select]) s)

/-- ENTRY_READ (R131, R170). -/
def execEntryRead (p : Port) (select : Byte) (index : Byte) (s : State) : Result :=
  .next (inService (viaFrame p .entryRead [select, index]) s)

/-- WINDOW_READ (R131, R170). -/
def execWindowRead (p : Port) (select : Byte) (index : Byte) (s : State) : Result :=
  .next (inService (viaFrame p .windowRead [select, index]) s)

/-- COUNTER_READ (R171). -/
def execCounterRead (p : Port) (kind : Byte) (index : Byte) (s : State) : Result :=
  .next (inService (viaFrame p .counterRead [kind, index]) s)

/-- SEGMENT_STATUS (R171). -/
def execSegmentStatus (p : Port) (segment : Byte) (s : State) : Result :=
  .next (inService (viaFrame p .segmentStatus [segment]) s)

end Sys2Proof.Machine
end

