-- ==== Sys2Proof/Machine/ManagementWrites.lean ====
section
/-!
DEFINITION. The holder commands on banks, queue, counters and settings, each as the frame that carries it (log entry 11). What each
does is in Commands.lean.
-/

namespace Sys2Proof.Machine

/-- HEADER_WRITE (R13, R15, R173). -/
def execHeaderWrite (p : Port) (image : List Byte) (s : State) : Result :=
  .next (inService (viaFrame p .headerWrite image) s)

/-- ENTRY_WRITE (R13, R14, R173). -/
def execEntryWrite (p : Port) (index : Byte) (image : List Byte) (s : State) : Result :=
  .next (inService (viaFrame p .entryWrite (index :: image)) s)

/-- ENTRY_CLEAR (R16, R173). -/
def execEntryClear (p : Port) (index : Byte) (s : State) : Result :=
  .next (inService (viaFrame p .entryClear [index]) s)

/-- WINDOW_WRITE (R13, R15, R173). -/
def execWindowWrite (p : Port) (first : Byte) (images : List Byte) (s : State) : Result :=
  .next (inService (viaFrame p .windowWrite (first :: images)) s)

/-- SHADOW_RELOAD (R133, R174). -/
def execShadowReload (p : Port) (s : State) : Result :=
  .next (inService (viaFrame p .shadowReload []) s)

/-- COMMIT (R135, R174). -/
def execCommit (p : Port) (crc : Half) (s : State) : Result :=
  .next (inService (viaFrame p .commit (be16 crc)) s)

/-- LOCKDOWN (R142, R174). -/
def execLockdown (p : Port) (s : State) : Result :=
  .next (inService (viaFrame p .lockdown []) s)

/-- VIOLATION_ACK (R153, R172). -/
def execViolationAck (p : Port) (n : Byte) (s : State) : Result :=
  .next (inService (viaFrame p .violationAck [n]) s)

/-- COUNTERS_CLEAR (R124, R175). -/
def execCountersClear (p : Port) (s : State) : Result :=
  .next (inService (viaFrame p .countersClear []) s)

/-- SETTINGS_WRITE (R175, R180). -/
def execSettingsWrite (p : Port) (record : List Byte) (s : State) : Result :=
  .next (inService (viaFrame p .settingsWrite record) s)

end Sys2Proof.Machine
end

