-- ==== Sys2Proof/Machine/ResetEvents.lean ====
section
/-!
DEFINITION. The two kinds of reset, how they join, what they cut off and what they leave (R51, R114, R115, R144, R145, R158,
R183 to R186; log entries 17 and 19).
-/

namespace Sys2Proof.Machine

/-! ## The beginning of a reset -/

/-- A segment while a reset lasts: neither line driven, no owner, no waiters, nothing deferred, no disable pending, no quarantine reason
(R114). -/
def cutSegment (c : Segment) : Segment :=
  { c with owner := none, waiters := [], deferred := [], reason := .none, disablePending := false, hold := none,
           act := none, ninthOwed := false }

/-- A reset begins or is joined: every line is released, timers are discarded, and sessions, transfers, procedures and
commands are abandoned without result (R51, R114, R144, R158, R184; log entry 17). -/
def beginReset (phase : ResetPhase) (s : State) : State :=
  { s with
    phase := phase, upi := .both quietUpi, session := .both idleSession,
    seg := PerSeg.of fun g => cutSegment (s.seg.get g),
    bc := { s.bc with holders := .both 0, commit := none }, refill := none, alert := .both .high, job := .both none,
    idle := none }

/-- The level of the RESET_N pin. -/
def setPin (l : Level) (s : State) : State := { s with resetPin := l }

/-! ## The end of a reset -/

/-- The device in service at the end of a reset, with the straps, settings, banks and accounts the kind of reset leaves
(R185 and the table of chapter 10.5). -/
def enterService (straps : Straps) (settings : Settings) (bank : PerBank Bank) (bc : BankController)
    (accounts : PerBank (Vector EntryAccount 128)) (s : State) : State :=
  { pending := s.pending, choice := s.choice, phase := .inService, resetPin := .high, straps := straps,
    settings := settings, upi := .both quietUpi, session := .both idleSession,
    seg := PerSeg.of fun g => resetSegment (settings.speed.get g) settings.holdLimit,
    segCounters := .all zeroSegCounters, bank := bank, bc := bc, accounts := accounts,
    portCounters := .both zeroPortCounters, refill := some (bank.get bc.active).header.refillTick, queue := emptyQueue,
    flags := .both noFlags, alert := .both .high, parser := .both freshParser, slot := .both emptySlot,
    readback := .both [], job := .both none, holder := none, idle := none }

/-- The end of a reset that keeps no bank: reset contents in both banks (R23, R144). -/
def enterWithContents (straps : Straps) (settings : Settings) (s : State) : State :=
  enterService straps settings (.both (resetBank straps.defpol)) resetController
    ⟨freshAccounts (resetBank straps.defpol), zeroAccounts⟩ s

/-- The end of a RESET_N with lockdown set: the active bank is kept and the shadow is a locked copy (R145, R186). -/
def enterWithLocked (straps : Straps) (s : State) : State :=
  enterService straps s.settings (.both (s.bank.get s.bc.active))
    { active := s.bc.active, shadow := .locked, holders := .both 0, dirty := false, locked := true, commit := none }
    ((PerBank.both zeroAccounts).set s.bc.active (freshAccounts (s.bank.get s.bc.active))) s

/-- The end of a RESET_N reset (R183 to R186). -/
def endResetN (pins : StrapPins) (s : State) : State :=
  if s.bc.locked then enterWithLocked (latchStraps pins) s else enterWithContents (latchStraps pins) s.settings s

/-- The end of a power-on reset: defaults, reset contents, lockdown clear (R183, R185). -/
def endPowerOn (pins : StrapPins) (s : State) : State := enterWithContents (latchStraps pins) defaultSettings s

/-! ## The four commands (R183) -/

/-- RESET_N goes low: in service a RESET_N reset begins; in a power-on reset it extends it. -/
def takeResetLow (s : State) : State :=
  match s.phase with
  | .inService => beginReset .resetN (setPin .low s)
  | .resetN => setPin .low s
  | .powerOn _ => setPin .low s

def execResetNLow (s : State) : Result := .next (takeResetLow s)

/-- RESET_N goes high: it ends a RESET_N reset, and a power-on reset whose interval has passed. -/
def takeResetHigh (pins : StrapPins) (s : State) : State :=
  match s.phase with
  | .inService => setPin .high s
  | .resetN => endResetN pins s
  | .powerOn false => setPin .high s
  | .powerOn true => endPowerOn pins s

def execResetNHigh (pins : StrapPins) (s : State) : Result := .next (takeResetHigh pins s)

/-- The supply is applied or falls below its range: a power-on reset begins, or the reset under way becomes one. -/
def takePowerOn (s : State) : State := beginReset (.powerOn false) s

def execPowerOnReset (s : State) : Result := .next (takePowerOn s)

/-- The power-on interval has passed: with RESET_N high the power-on reset ends, with RESET_N low it goes on. -/
def takePowerOnEnd (pins : StrapPins) (s : State) : State :=
  match s.phase, s.resetPin with
  | .powerOn _, .high => endPowerOn pins s
  | .powerOn _, .low => { s with phase := .powerOn true }
  | .inService, _ => s
  | .resetN, _ => s

def execPowerOnResetEnd (pins : StrapPins) (s : State) : Result := .next (takePowerOnEnd pins s)

end Sys2Proof.Machine
end

