-- ==== Sys2Proof/Machine/SegmentCommands.lean ====
section
/-!
DEFINITION. The holder commands on segments and parts, each as the frame that carries it (log entry 11). What each does is in
Commands.lean.
-/

namespace Sys2Proof.Machine

/-- SEGMENT_DISABLE (R109, R176). -/
def execSegmentDisable (p : Port) (segment : Byte) (s : State) : Result :=
  .next (inService (viaFrame p .segmentDisable [segment]) s)

/-- SEGMENT_ENABLE (R110, R176). -/
def execSegmentEnable (p : Port) (segment : Byte) (s : State) : Result :=
  .next (inService (viaFrame p .segmentEnable [segment]) s)

/-- SEGMENT_RELEASE (R111, R176). -/
def execSegmentRelease (p : Port) (segment : Byte) (s : State) : Result :=
  .next (inService (viaFrame p .segmentRelease [segment]) s)

/-- ABORT_ALL (R49, R112, R177). -/
def execAbortAll (p : Port) (s : State) : Result :=
  .next (inService (viaFrame p .abortAll []) s)

end Sys2Proof.Machine
end

