-- ==== Sys2Proof/Machine/SegmentEvents.lean ====
section
/-!
DEFINITION. What happens on a segment's lines outside a transfer: the steps of the close procedure (R102 to R104), the STOP
of a release (R100), foreign conditions (R106) and losses (R107).
-/

namespace Sys2Proof.Machine

/-- The second step of the close procedure: with SDA high it does not run and the third begins (R103). -/
def afterScl (g : SegId) (sda : Level) (s : State) : State :=
  match sda with
  | .high => closeStep g .three s
  | .low => closeStep g .two s

/-- SCL is seen high in the first step (R102, R103). -/
def takeSclReleased (g : SegId) (sda : Level) (s : State) : State :=
  if (s.seg.get g).state = .closing ∧ (s.seg.get g).step = .one then afterScl g sda s else s

def execCloseSclReleased (g : SegId) (sda : Level) (s : State) : Result := .next (inService (takeSclReleased g sda) s)

/-- A recovery pulse has completed with SDA sampled at a level (R103). -/
def afterPulse (g : SegId) (sda : Level) (s : State) : State :=
  let s := s.updSeg g fun c => { c with pulses := c.pulses + 1 }
  match sda with
  | .high => closeStep g .three s
  | .low => if (s.seg.get g).pulses < 9 then closeStep g .two s else enterQuarantine g .dataHeld s

/-- A recovery pulse of the second step (R103). -/
def takeRecoveryPulse (g : SegId) (sda : Level) (s : State) : State :=
  if (s.seg.get g).state = .closing ∧ (s.seg.get g).step = .two then afterPulse g sda s else s

def execRecoveryPulse (g : SegId) (sda : Level) (s : State) : Result := .next (inService (takeRecoveryPulse g sda) s)

/-- The STOP of the third step ended: formed, the procedure ends; with SDA low, it goes back to the second step, unless
nine pulses were given (R104). -/
def afterCloseStop (g : SegId) (r : CloseStopResult) (s : State) : State :=
  match r with
  | .formed => settleSegment g (if (s.seg.get g).pulses = 0 then s else countRecovery g s)
  | .sdaLow => if (s.seg.get g).pulses < 9 then closeStep g .two s else enterQuarantine g .dataHeld s

/-- The STOP of the third step (R104). -/
def takeCloseStop (g : SegId) (r : CloseStopResult) (s : State) : State :=
  if (s.seg.get g).state = .closing ∧ (s.seg.get g).step = .three then afterCloseStop g r s else s

def execCloseStopEnd (g : SegId) (r : CloseStopResult) (s : State) : Result := .next (inService (takeCloseStop g r) s)

/-- The STOP of a release formed, or failed and the close procedure starts (R100). -/
def settleRelease (g : SegId) (r : StopResult) (s : State) : State :=
  match r with
  | .formed => settleSegment g s
  | .sclLow => startClose g s
  | .sdaLow => startClose g s

/-- The STOP of a release has ended, and what reached the Segment Controller meanwhile is taken after it (R98, R100, R109;
log entries 5 and 6). -/
def afterRelease (g : SegId) (r : StopResult) (s : State) : State :=
  takeAllDeferred g (s.seg.get g).deferred (settleRelease g r (s.updSeg g fun c => { c with deferred := [] }))

/-- The STOP of a release, of a segment that no port owns any more (R100; log entry 5). -/
def takeReleaseStop (g : SegId) (r : StopResult) (s : State) : State :=
  if (s.seg.get g).act = some .releaseStop ∧ (s.seg.get g).owner = none then afterRelease g r s else s

def execReleaseStopResult (g : SegId) (r : StopResult) (s : State) : Result :=
  .next (inService (takeReleaseStop g r) s)

/-- Whether a condition that the Segment Controller did not form is foreign traffic in a segment state (R103, R106). On an
OWNED segment it is a loss (R107); QUARANTINED and DISABLED segments are not watched (R108, R109). -/
def isForeign (c : Segment) (k : ForeignKind) : Bool :=
  match c.state, k with
  | .idle, .start => true
  | .idle, .clockFall => true
  | .closing, .start => true
  | .closing, .stop => true
  | .closing, .stopInPulse => c.step != .two
  | _, _ => false

/-- A foreign condition on an IDLE or CLOSING segment (R106). -/
def takeForeign (g : SegId) (k : ForeignKind) (s : State) : State :=
  if isForeign (s.seg.get g) k then enterQuarantine g .foreign s else s

def execForeignCondition (g : SegId) (k : ForeignKind) (s : State) : Result := .next (inService (takeForeign g k) s)

/-- A loss is answered by the owner's Session Engine and quarantines the segment. Its order is free where both make
records (R50, R107, R108, R151; log entry 10). -/
def loseSegment (p : Port) (g : SegId) (s : State) : State :=
  let s := loseOwnership p s
  if s.relaying p ∧ (s.seg.get g).waiters ≠ [] then
    if Config.appendOrder s.choice then
      enterQuarantine g .foreign (answerPart p .segmentLost { s with choice := s.choice + 1 })
    else answerPart p .segmentLost (enterQuarantine g .foreign { s with choice := s.choice + 1 })
  else enterQuarantine g .foreign (answerPart p .segmentLost s)

/-- A loss of an OWNED segment; none can be found during the STOP of a release, when no session owns it (R107). -/
def takeLoss (g : SegId) (s : State) : State :=
  if (s.seg.get g).state = .owned then forOwner g (fun p => loseSegment p g) s else s

def execLoss (g : SegId) (_c : LossCause) (s : State) : Result := .next (inService (takeLoss g) s)

end Sys2Proof.Machine
end

