-- ==== Sys2Proof/Machine/TargetEvents.lean ====
section
/-!
DEFINITION. The answers and bytes of the target a session talks to (R31 to R36, R97).
-/

namespace Sys2Proof.Machine

/-- The target's ninth bit for an address byte: NACK ends the part, ACK drives the next address byte, and the ACK of the
last one is relayed (R31, R40, R68). -/
def takeAddressAnswer (g : SegId) (a : Ack) (s : State) : State :=
  forOwner g (fun p s =>
    match (s.seg.get g).act, a with
    | some (.address _ _ _), .nack => endWithNack p s
    | some (.address r _ (b :: rest)), .ack => s.updSeg g fun c => { c with act := some (.address r b rest) }
    | some (.address _ _ []), .ack => addressAcknowledged p g s
    | _, _ => s) s

def execTargetAddressAnswer (g : SegId) (a : Ack) (s : State) : Result := .next (inService (takeAddressAnswer g a) s)

/-- The target's ninth bit for a data byte: NACK is relayed and ends the part, ACK drives the byte that waits behind a
held one, and the ACK of the last one is relayed (R32, R33, R37, R76, R77). -/
def takeWriteAnswer (g : SegId) (a : Ack) (s : State) : State :=
  forOwner g (fun p s =>
    match (s.seg.get g).act, a with
    | some (.send _ _), .nack => endWithNack p s
    | some (.send _ (b :: rest)), .ack => s.updSeg g fun c => { c with act := some (.send b rest) }
    | some (.send _ []), .ack =>
      writeAcknowledged p (releaseWith p .ack (s.updSeg g fun c => { c with act := none }))
    | _, _ => s) s

def execTargetWriteAnswer (g : SegId) (a : Ack) (s : State) : Result := .next (inService (takeWriteAnswer g a) s)

/-- A byte is clocked in from the target (R34, R36, R77). -/
def takeReadByte (g : SegId) (b : Byte) (s : State) : State :=
  forOwner g (fun p s =>
    match (s.seg.get g).act with
    | some (.receive cut) => receiveByte p g b cut s
    | _ => s) s

def execReadByteReceived (g : SegId) (b : Byte) (s : State) : Result := .next (inService (takeReadByte g b) s)

end Sys2Proof.Machine
end

