-- ==== Sys2Proof/Machine/TimerEvents.lean ====
section
/-!
DEFINITION. The expiries of the device's timers (R30, R47, R48, R102, R118, R167). An expiry whose timer does not run does
nothing.
-/

namespace Sys2Proof.Machine

/-- The arbitration wait timer expires in GRANT_WAIT: the port withdraws and the part is refused (R30). -/
def takeWaitExpiry (p : Port) (s : State) : State :=
  if (s.session.get p).state = .grantWait ∧ (s.session.get p).wait.isSome then refuseWaiting p .grantTimeout s else s

def execWaitTimerExpiry (p : Port) (s : State) : Result := .next (inService (takeWaitExpiry p) s)

/-- The stretch timer expires: the answer of R47 by phase, and the segment is given up. -/
def takeStretchExpiry (p : Port) (s : State) : State :=
  if (s.session.get p).stretch.isSome then
    match (s.session.get p).state with
    | .grantWait => refuseWaiting p .grantTimeout s
    | .connect => giveUpSegment p (answerPart p .targetTimeout s)
    | .write => giveUpSegment p (answerPart p .targetTimeout s)
    | .read => giveUpSegment p (answerPart p .targetTimeout s)
    | .idle | .address | .mgmt | .discard | .fill => s
  else s

def execStretchTimerExpiry (p : Port) (s : State) : Result := .next (inService (takeStretchExpiry p) s)

/-- The record of an abandonment: of a part with a judged address, outside MGMT, DISCARD and FILL (R48). -/
def recordAbandoned (p : Port) (s : State) : State :=
  match (s.session.get p).state with
  | .mgmt | .discard | .fill => s
  | .idle | .address | .grantWait | .connect | .write | .read =>
    if (s.part p).decision.isSome then makeRecord p .abandoned .cut none s else s

/-- The session is abandoned: its segment is given up, its record made, the expiry counted, its frame ended, its bank
released (R48). The abandoned counter rises before a frame that ends here executes its command, so a COUNTERS_CLEAR leaves
it 0 and a COUNTER_READ reports it raised (R124, R161; log entry 29). -/
def abandonSession (p : Port) (s : State) : State :=
  closeRecord p (releaseBank p (endPartFrame p (countAbandoned p (recordAbandoned p (giveUpSegment p s)))))

/-- The abandon timer expires (R48). -/
def takeAbandonExpiry (p : Port) (s : State) : State :=
  if s.free p ∧ (s.session.get p).abandon.isSome then abandonSession p s else s

def execAbandonTimerExpiry (p : Port) (s : State) : Result := .next (inService (takeAbandonExpiry p) s)

/-- The hold timer of a close procedure expires with SCL held low (R102, R103). -/
def takeHoldExpiry (g : SegId) (s : State) : State :=
  if (s.seg.get g).state = .closing ∧ (s.seg.get g).hold.isSome then enterQuarantine g .clockHeld s else s

def execHoldTimerExpiry (g : SegId) (s : State) : Result := .next (inService (takeHoldExpiry g) s)

/-- The credit an entry's bucket has after a refill tick (R10, R118). -/
def refilled (e : Entry) (a : EntryAccount) : EntryAccount :=
  match a.bucket, e.creditLimit with
  | some n, some l => { a with bucket := some (min l.toNat (n + e.creditRefill.toNat)) }
  | _, _ => a

/-- The refill tick: each bucket of the active bank gains its refill, and the timer starts again (R118). -/
def refillBuckets (s : State) : State :=
  (s.setAccounts s.bc.active (tableOf 128 fun i =>
    refilled (tableGet (s.bank.get s.bc.active).entries i) (tableGet (s.accounts.get s.bc.active) i))).setRefill
    (some (s.bank.get s.bc.active).header.refillTick)

/-- The refill timer expires (R118). -/
def takeRefillTick (s : State) : State := if s.refill.isSome then refillBuckets s else s

def execRefillTick (s : State) : Result := .next (inService takeRefillTick s)

/-- The session idle timer expires (R167). -/
def takeIdleExpiry (s : State) : State := if s.idle.isSome then expireSession s else s

def execIdleTimerExpiry (s : State) : Result := .next (inService takeIdleExpiry s)

end Sys2Proof.Machine
end

