-- ==== Sys2Proof/Machine/Dispatch.lean ====
section
/-!
DEFINITION. The command dispatch: one arm per row of spec/opcode_table.json, each the direct call of its meaning.
-/

namespace Sys2Proof.Machine

def exec (i : Instr) (s : State) : Host.Outcome State Fault Refusal :=
  match i with
  | .start p => Sys2Proof.Machine.execStart p s
  | .repeatedStart p => Sys2Proof.Machine.execRepeatedStart p s
  | .stop p => Sys2Proof.Machine.execStop p s
  | .addressByte p b => Sys2Proof.Machine.execAddressByte p b s
  | .dataByte p b => Sys2Proof.Machine.execDataByte p b s
  | .upstreamReadAck p => Sys2Proof.Machine.execUpstreamReadAck p s
  | .upstreamReadNack p => Sys2Proof.Machine.execUpstreamReadNack p s
  | .targetAddressAnswer g a => Sys2Proof.Machine.execTargetAddressAnswer g a s
  | .targetWriteAnswer g a => Sys2Proof.Machine.execTargetWriteAnswer g a s
  | .readByteReceived g b => Sys2Proof.Machine.execReadByteReceived g b s
  | .waitTimerExpiry p => Sys2Proof.Machine.execWaitTimerExpiry p s
  | .stretchTimerExpiry p => Sys2Proof.Machine.execStretchTimerExpiry p s
  | .abandonTimerExpiry p => Sys2Proof.Machine.execAbandonTimerExpiry p s
  | .holdTimerExpiry g => Sys2Proof.Machine.execHoldTimerExpiry g s
  | .refillTick => Sys2Proof.Machine.execRefillTick s
  | .idleTimerExpiry => Sys2Proof.Machine.execIdleTimerExpiry s
  | .closeSclReleased g sda => Sys2Proof.Machine.execCloseSclReleased g sda s
  | .recoveryPulse g sda => Sys2Proof.Machine.execRecoveryPulse g sda s
  | .closeStopEnd g r => Sys2Proof.Machine.execCloseStopEnd g r s
  | .releaseStopResult g r => Sys2Proof.Machine.execReleaseStopResult g r s
  | .foreignCondition g k => Sys2Proof.Machine.execForeignCondition g k s
  | .loss g c => Sys2Proof.Machine.execLoss g c s
  | .validationCompletion => Sys2Proof.Machine.execValidationCompletion s
  | .reloadCompletion => Sys2Proof.Machine.execReloadCompletion s
  | .resetNLow => Sys2Proof.Machine.execResetNLow s
  | .resetNHigh pins => Sys2Proof.Machine.execResetNHigh pins s
  | .powerOnReset => Sys2Proof.Machine.execPowerOnReset s
  | .powerOnResetEnd pins => Sys2Proof.Machine.execPowerOnResetEnd pins s
  | .sessionOpen p => Sys2Proof.Machine.execSessionOpen p s
  | .sessionClose p => Sys2Proof.Machine.execSessionClose p s
  | .statusRead p clear => Sys2Proof.Machine.execStatusRead p clear s
  | .identRead p => Sys2Proof.Machine.execIdentRead p s
  | .settingsRead p => Sys2Proof.Machine.execSettingsRead p s
  | .violationRead p => Sys2Proof.Machine.execViolationRead p s
  | .headerRead p select => Sys2Proof.Machine.execHeaderRead p select s
  | .entryRead p select index => Sys2Proof.Machine.execEntryRead p select index s
  | .windowRead p select index => Sys2Proof.Machine.execWindowRead p select index s
  | .counterRead p kind index => Sys2Proof.Machine.execCounterRead p kind index s
  | .segmentStatus p segment => Sys2Proof.Machine.execSegmentStatus p segment s
  | .headerWrite p image => Sys2Proof.Machine.execHeaderWrite p image s
  | .entryWrite p index image => Sys2Proof.Machine.execEntryWrite p index image s
  | .entryClear p index => Sys2Proof.Machine.execEntryClear p index s
  | .windowWrite p first images => Sys2Proof.Machine.execWindowWrite p first images s
  | .shadowReload p => Sys2Proof.Machine.execShadowReload p s
  | .commit p crc => Sys2Proof.Machine.execCommit p crc s
  | .lockdown p => Sys2Proof.Machine.execLockdown p s
  | .violationAck p n => Sys2Proof.Machine.execViolationAck p n s
  | .countersClear p => Sys2Proof.Machine.execCountersClear p s
  | .settingsWrite p record => Sys2Proof.Machine.execSettingsWrite p record s
  | .segmentDisable p segment => Sys2Proof.Machine.execSegmentDisable p segment s
  | .segmentEnable p segment => Sys2Proof.Machine.execSegmentEnable p segment s
  | .segmentRelease p segment => Sys2Proof.Machine.execSegmentRelease p segment s
  | .abortAll p => Sys2Proof.Machine.execAbortAll p s
  | .upstreamSclEdge p e => Sys2Proof.Machine.execUpstreamSclEdge p e s

end Sys2Proof.Machine
end

