-- ==== Sys2Proof/Safety.lean ====
section
/-!
DEFINITION. What holds of every state a run reaches: the violation queue, the settings, the alert lines, the holder counts,
the shadow's state, the response slots, the ownership of segments, the waiter lists, the banks and the credit buckets; and
the words the statements of Certificates/ are written in.
-/

namespace Sys2Proof.Machine

/-- The Violation Queue holds at most 32 records with consecutive sequence numbers up to the next one, and an empty queue
has a clear overflow counter (R148, R149, R153). -/
def QueueSafe (q : ViolationQueue) : Prop :=
  q.records.length ≤ 32 ∧
    (∀ i v, q.records[i]? = some v → v.sequence = q.nextSequence - BitVec.ofNat 16 (q.records.length - i)) ∧
    (q.records = [] → q.overflow = 0)

/-- The Settings record stays in the ranges of R179. -/
def SettingsSafe (r : Settings) : Prop :=
  (∀ p, 1 ≤ (r.port.get p).stretch.toNat ∧ 1 ≤ (r.port.get p).abandon.toNat) ∧ 1 ≤ r.holdLimit.toNat ∧
    (1 ≤ r.watermark.toNat ∧ r.watermark.toNat ≤ 32) ∧ (1 ≤ r.idleTimeout.toNat ∧ r.idleTimeout.toNat ≤ 60)

/-- In service each alert line is low exactly while a condition its mask selects holds (R157); in a reset both are
released (R158). -/
def AlertsSafe (s : State) : Prop :=
  ∀ p, s.alert.get p = if s.phase = .inService then s.alertLevel p else .high

/-- 1 if a session holds a bank, 0 if not. -/
def Session.holds (e : Session) (k : BankId) : Nat := if e.bank = some k then 1 else 0

/-- How many sessions hold a bank. -/
def State.captures (s : State) (k : BankId) : Nat := s.session.up0.holds k + s.session.up1.holds k

/-- A holder count is the number of sessions that hold the bank (R128). -/
def HoldersSafe (s : State) : Prop := ∀ k, s.bc.holders.get k = s.captures k

/-- In service the shadow drains exactly while a session holds it, validates exactly while a commit is in progress, and is
locked exactly under lockdown (R126, R128, R142). -/
def ShadowSafe (s : State) : Prop :=
  s.phase = .inService →
    (s.bc.shadow = .draining ↔ 0 < s.bc.holders.get s.shadowId) ∧
      (s.bc.shadow = .validating ↔ s.bc.commit.isSome) ∧ (s.bc.shadow = .locked ↔ s.bc.locked)

/-- In service a slot reads IN_PROGRESS exactly while a command of its port is in progress (R164). -/
def SlotsSafe (s : State) : Prop :=
  s.phase = .inService → ∀ p, ((s.slot.get p).status = .inProgress ↔ (s.job.get p).isSome)

/-- A segment a session owns is OWNED by that session's port (R94, R97). -/
def OwnersSafe (s : State) : Prop :=
  ∀ p g, (s.session.get p).owned = some g → (s.seg.get g).state = .owned ∧ (s.seg.get g).owner = some p

/-- The port whose request waits for the STOP of a release, where it is a request. -/
def Deferred.port? : Deferred → Option Port
  | .request p => some p
  | .disable => none

/-- The ports that seek a segment: those of its waiter list, and those whose requests wait for the STOP of a release. -/
def Segment.seekers (c : Segment) : List Port := c.waiters ++ c.deferred.filterMap Deferred.port?

/-- A port that seeks a segment waits in GRANT_WAIT for that segment and owns none, and seeks it once (R43, R98); and
nothing waits for the STOP of a release but on a segment that is being released (R100; log entries 5 and 6). -/
def WaitersSafe (s : State) : Prop :=
  (∀ p g, p ∈ (s.seg.get g).seekers →
      (s.session.get p).state = .grantWait ∧ (s.part p).segment = some g ∧ (s.session.get p).owned = none) ∧
    (∀ g, (s.seg.get g).seekers.Nodup) ∧
      ∀ g, (s.seg.get g).deferred ≠ [] → (s.seg.get g).state = .owned ∧ (s.seg.get g).owner = none

/-- The active bank passes the DUPLICATE check (R22). -/
def PolicySafe (s : State) : Prop := duplicateIndex (s.bank.get s.bc.active) = none

/-- In the active bank an entry has a bucket exactly while it is valid and has a credit limit, and its count is not above
that limit (R116). -/
def CreditSafe (s : State) : Prop :=
  (∀ i n, (tableGet (s.accounts.get s.bc.active) i).bucket = some n →
      (tableGet (s.bank.get s.bc.active).entries i).valid = true ∧
        ∃ l, (tableGet (s.bank.get s.bc.active).entries i).creditLimit = some l ∧ n ≤ l.toNat) ∧
    ∀ i, (tableGet (s.accounts.get s.bc.active) i).bucket = none →
      (tableGet (s.bank.get s.bc.active).entries i).valid = true →
        (tableGet (s.bank.get s.bc.active).entries i).creditLimit = none

/-- Every item of a bank could have been written: the header and each entry pass their field checks, and no window has its
low offset above its high offset (R12, R14, R15). -/
def BankSafe (k : Bank) : Prop :=
  headerOfImage (headerImage k.header) = some k.header ∧
    (∀ i, entryOfImage (entryImage (tableGet k.entries i)) = some (tableGet k.entries i)) ∧
      ∀ j, (tableGet k.windows j).low.toNat ≤ (tableGet k.windows j).high.toNat

/-- This holds of both banks. -/
def BanksSafe (s : State) : Prop := ∀ k, BankSafe (s.bank.get k)

/-- The commands that begin or end a reset (R183). -/
def resetCommand : Instr → Bool
  | .resetNLow => true
  | .resetNHigh _ => true
  | .powerOnReset => true
  | .powerOnResetEnd _ => true
  | _ => false

/-- All of these together. -/
structure Safe (s : State) : Prop where
  queue : QueueSafe s.queue
  settings : SettingsSafe s.settings
  alerts : AlertsSafe s
  holders : HoldersSafe s
  shadow : ShadowSafe s
  slots : SlotsSafe s
  owners : OwnersSafe s
  waiters : WaitersSafe s
  policy : PolicySafe s
  credit : CreditSafe s
  banks : BanksSafe s

/-! ## What a command leaves alone -/

/-- The queue of commands, the reset state, straps, settings, and the Management Agent's parsers, slots, long commands and
session are as before. -/
def KeepsManagement (s t : State) : Prop :=
  t.pending = s.pending ∧ t.phase = s.phase ∧ t.resetPin = s.resetPin ∧ t.straps = s.straps ∧ t.settings = s.settings ∧
    t.parser = s.parser ∧ t.slot = s.slot ∧ t.readback = s.readback ∧ t.job = s.job ∧ t.holder = s.holder ∧ t.idle = s.idle

/-- Both banks, the accounts of their entries, the refill timer and the counters of the ports are as before. -/
def KeepsPolicy (s t : State) : Prop :=
  t.bank = s.bank ∧ t.accounts = s.accounts ∧ t.refill = s.refill ∧ t.portCounters = s.portCounters

/-- The Violation Queue, the latched flags and the alert lines are as before. -/
def KeepsRecords (s t : State) : Prop := t.queue = s.queue ∧ t.flags = s.flags ∧ t.alert = s.alert

/-- The session and the line of one port are as before. -/
def KeepsPort (p : Port) (s t : State) : Prop := t.session.get p = s.session.get p ∧ t.upi.get p = s.upi.get p

/-- Every segment but one, with its counters, is as before. -/
def KeepsOtherSegs (g : SegId) (s t : State) : Prop :=
  ∀ h, h ≠ g → t.seg.get h = s.seg.get h ∧ t.segCounters.get h = s.segCounters.get h

/-- Every segment, with its counters, is as before. -/
def KeepsSegs (s t : State) : Prop := t.seg = s.seg ∧ t.segCounters = s.segCounters

/-! ## Common results -/

/-- The Violation Queue after an append (R149, R150). -/
def queueAfter (q : ViolationQueue) (v : Violation) : ViolationQueue :=
  if q.records.length < 32 then
    { q with records := q.records ++ [{ v with sequence := q.nextSequence }], nextSequence := q.nextSequence + 1 }
  else { q with overflow := satInc q.overflow }

/-- A segment whose STOP of a release is being driven (R100; log entry 5). -/
def releasing (c : Segment) : Segment := { c with owner := none, act := some .releaseStop, ninthOwed := false }

/-- A segment whose close procedure starts, with the settings in force (R101, R102; log entries 7 and 8). -/
def closing (r : Settings) (g : SegId) (c : Segment) : Segment :=
  { c with
    state := .closing, owner := none, reason := .none, speed := r.speed.get g, holdLimit := r.holdLimit, step := .one,
    pulses := 0, hold := some r.holdLimit, act := none, ninthOwed := false }

/-- What a port owned is being released; every other segment is as before. -/
def Released (p : Port) (s t : State) : Prop :=
  ∀ g, t.seg.get g = if (s.session.get p).owned = some g then releasing (s.seg.get g) else s.seg.get g

/-- What a port owned is being closed; every other segment is as before. -/
def GivenUp (p : Port) (s t : State) : Prop :=
  ∀ g, t.seg.get g = if (s.session.get p).owned = some g then closing s.settings g (s.seg.get g) else s.seg.get g

/-- The port's session is in DISCARD, owning nothing, its address or byte answered by NACK, its clock free, and in a read
part the filler byte ready for the first byte a controller clocks anyway (R30, R44). -/
def Discarding (p : Port) (t : State) : Prop :=
  (t.session.get p).state = .discard ∧ (t.session.get p).owned = none ∧ (t.session.get p).wait = none ∧
    (t.session.get p).stretch = none ∧ (t.part p).held = none ∧ (t.upi.get p).ninth = some .nack ∧
    (t.upi.get p).hold = false ∧
    ((t.part p).direction = .read → (t.upi.get p).phase = .send ∧ (t.upi.get p).shift = some t.settings.filler) ∧
    ((t.part p).direction = .write → (t.upi.get p).phase = .receive ∧ (t.upi.get p).shift = none)

/-- A hold of the port's clock is on, its stretch timer running with the limit in force (R47). -/
def Holding (p : Port) (s t : State) : Prop :=
  (t.upi.get p).hold = true ∧ (t.session.get p).stretch = some (s.limits p).stretch ∧ (t.session.get p).abandon = none

/-- No hold of the port's clock is on, and the abandon timer starts with the limit in force (R48). -/
def Freed (p : Port) (s t : State) : Prop :=
  (t.upi.get p).hold = false ∧ (t.session.get p).stretch = none ∧
    (t.session.get p).abandon = some (s.limits p).abandon

/-- A device that has just come into service (R25, R94, R115, R117, R118, R125, R148, R154, R164, R166, R185): all but the
straps, the settings and the roles and contents of the banks. -/
def StartsFresh (t : State) : Prop :=
  t.phase = .inService ∧ t.resetPin = .high ∧
    (∀ p, t.upi.get p = { phase := .quiet, hold := false, shift := none, ninth := none } ∧
      t.session.get p = idleSession ∧ t.portCounters.get p = ⟨0, 0⟩ ∧ t.flags.get p = ⟨false, false, false⟩ ∧
      t.alert.get p = .high ∧ (t.parser.get p).state = .awaitCommand ∧ t.slot.get p = ⟨.empty, []⟩ ∧
      t.readback.get p = [] ∧ t.job.get p = none) ∧
    (∀ g, t.seg.get g =
        { state := .closing, owner := none, waiters := [], deferred := [], reason := .none, disablePending := false,
          speed := t.settings.speed.get g, holdLimit := t.settings.holdLimit, step := .one, pulses := 0,
          hold := some t.settings.holdLimit, act := none, ninthOwed := false, ninthSent := none } ∧
      t.segCounters.get g = ⟨0, 0, 0⟩) ∧
    t.bc.holders = ⟨0, 0⟩ ∧ t.bc.dirty = false ∧ t.bc.commit = none ∧
    (∀ k i, (tableGet (t.accounts.get k) i).hits = 0 ∧ (tableGet (t.accounts.get k) i).violations = 0) ∧
    (∀ i, (tableGet (t.accounts.get t.bc.active) i).bucket =
      if (tableGet (t.bank.get t.bc.active).entries i).valid then
        (tableGet (t.bank.get t.bc.active).entries i).creditLimit.map (·.toNat)
      else none) ∧
    t.refill = some (t.bank.get t.bc.active).header.refillTick ∧ t.queue = ⟨[], 0, 0⟩ ∧ t.holder = none ∧ t.idle = none

/-- A bank with the reset contents (R23). -/
def HasResetContents (defpol : Bool) (k : Bank) : Prop :=
  k.header =
      { defaultAction := if defpol then .forward else .deny, defaultSegment := .seg0, generalCallAction := .block,
        generalCallSegment := .seg0, refillTick := 1000#16, tag := 0#16 } ∧
    (∀ i, entryImage (tableGet k.entries i) = List.replicate 16 0#8) ∧ ∀ j, tableGet k.windows j = ⟨0, 0⟩

/-! ## Judged addresses -/

/-- The part that the first byte of a 10-bit write address leaves held (R26, R38). -/
def heldAddress (first : Byte) : Part :=
  { decision := none, direction := .write, count := 0, held := some first, sub := [], recorded := false, length := 0,
    kind := .ten, address := highBits first ++ 0#8, segment := none, target := 0 }

/-- An address byte completes the address the port's new part is judged for (R29, R38, R41): a 7-bit one that is not the
management address; a 10-bit write address at its second byte; or the remembered 10-bit address at the first byte of its
read. -/
def State.completes (s : State) (p : Port) (b : Byte) (kind : AddrKind) (d : Direction) (a : Addr) : Prop :=
  s.phase = .inService ∧ (s.session.get p).state = .address ∧
    ((kind = .seven ∧ d = byteDirection b ∧ (s.part p).held = none ∧ isTenBitFirst b = false ∧
        a = addr7 (addressBits b) ∧ a ≠ 0x58#10 + s.straps.maddr.setWidth 10) ∨
      (kind = .ten ∧ d = .write ∧ ∃ first, s.part p = heldAddress first ∧ a = highBits first ++ b) ∨
      (kind = .ten ∧ d = .read ∧ byteDirection b = .read ∧ (s.part p).held = none ∧ isTenBitFirst b = true ∧
        ∃ r, (s.session.get p).remembered = some r ∧ addrHigh r.address = highBits b ∧ a = r.address))

/-- An address that is looked up among the entries: a 10-bit one, or a 7-bit one of 0x08 to 0x77 (R56, R58). -/
def lookedUp (kind : AddrKind) (a : Addr) : Prop := kind = .seven → 8 ≤ a.toNat ∧ a.toNat ≤ 0x77

/-- The bytes that carry a target address on a segment (R31, R41): one for a 7-bit one, 11110yy0 and the low byte for a
10-bit write, 11110yy1 for a 10-bit read. -/
def targetBytes (kind : AddrKind) (d : Direction) (x : Addr) : Byte × List Byte :=
  match kind, d with
  | .seven, d => (addressByte7 x d, [])
  | .ten, .write => ((0b11110#5 ++ addrHigh x ++ 0#1 : BitVec (5 + 2 + 1)), [addrLow x])
  | .ten, .read => ((0b11110#5 ++ addrHigh x ++ 1#1 : BitVec (5 + 2 + 1)), [])

/-! ## Forward decisions -/

/-- The bank a part of the port is judged by at its address byte: the captured one, or the one captured now (R28). -/
def State.judgingId (s : State) (p : Port) : BankId := (s.session.get p).bank.getD s.bc.active

/-- An entry is the one that grants the port an address (R58). -/
def State.grantedBy (s : State) (p : Port) (kind : AddrKind) (a : Addr) (i : EntryIdx) : Prop :=
  let k := s.bank.get (s.judgingId p)
  (tableGet k.entries i).claims kind a = true ∧ (tableGet k.entries i).access.get p ≠ .none ∧
    ∀ j, (tableGet k.entries j).claims kind a = true → (tableGet k.entries j).access.get p ≠ .none → j = i

/-- An entry is the lowest of those that claim an address, none of which grants it to the port (R59). -/
def State.deniedBy (s : State) (p : Port) (kind : AddrKind) (a : Addr) (i : EntryIdx) : Prop :=
  let k := s.bank.get (s.judgingId p)
  (tableGet k.entries i).claims kind a = true ∧
    ∀ j, (tableGet k.entries j).claims kind a = true → (tableGet k.entries j).access.get p = .none ∧ i ≤ j

/-- An entry grants the port an address and no other does, its access allows the direction, a read finds a pointer that its
read list lets pass, and its bucket, if it has one, holds a credit (R58, R61 to R63). -/
def State.entryPasses (s : State) (p : Port) (kind : AddrKind) (d : Direction) (a : Addr) (i : EntryIdx) : Prop :=
  let k := s.bank.get (s.judgingId p)
  let e := tableGet k.entries i
  s.grantedBy p kind a i ∧ (e.access.get p).allows d = true ∧
    (d = .read → ∀ l, e.readList = some l →
      ∃ o, s.pointerFor p i = some o ∧ (e.mode = .atStart → inList k l o = true)) ∧
    (e.creditLimit.isSome → ∃ n, (tableGet (s.accounts.get (s.judgingId p)) i).bucket = some (n + 1))

/-- The judgement of an address ends in the decision `c` to forward to a segment and a target address, with no violation
found (R54, R58, R60, R66). -/
def State.forwards (s : State) (p : Port) (kind : AddrKind) (d : Direction) (a : Addr) (c : Decision) (g : SegId)
    (x : Addr) : Prop :=
  let k := s.bank.get (s.judgingId p)
  (kind = .seven ∧ a = 0 ∧ d = .write ∧ k.header.generalCallAction = .forward ∧ c = .generalCallForward ∧
      g = k.header.generalCallSegment ∧ x = 0) ∨
    (lookedUp kind a ∧ (∀ i, (tableGet k.entries i).claims kind a = false) ∧ k.header.defaultAction = .forward ∧
      c = .defaultForward ∧ g = k.header.defaultSegment ∧ x = a) ∨
    (lookedUp kind a ∧ ∃ i, s.entryPasses p kind d a i ∧ c = .entry i ∧ g = (tableGet k.entries i).segment ∧
      x = (tableGet k.entries i).target.getD (tableGet k.entries i).matchAddr)

/-- The violations an entry is found to have at an address, in the order of the steps, each with its offset (R59, R61 to
R63): the access, the read list of a read, the bucket. -/
def State.addressFaults (s : State) (p : Port) (d : Direction) (i : EntryIdx) : List (Reason × Option Half) :=
  let k := s.bank.get (s.judgingId p)
  let e := tableGet k.entries i
  (if e.access.get p = .none then [(.portDenied, none)]
    else if (e.access.get p).allows d = true then [] else [(.direction, none)]) ++
    (match d, e.readList, s.pointerFor p i with
      | .read, some _, none => [(.noPointer, none)]
      | .read, some l, some o => if e.mode = .atStart ∧ inList k l o = false then [(.readWindow, some o)] else []
      | _, _, _ => []) ++
    match e.creditLimit, (tableGet (s.accounts.get (s.judgingId p)) i).bucket with
    | some _, some 0 => [(.noCredit, none)]
    | some _, none => [(.noCredit, none)]
    | _, _ => []

/-- An entry with the action LOG_ONLY decides an address for the port and finds violations in it (R58, R59, R64). -/
def State.logged (s : State) (p : Port) (kind : AddrKind) (d : Direction) (a : Addr) (i : EntryIdx) : Prop :=
  lookedUp kind a ∧ (s.grantedBy p kind a i ∨ s.deniedBy p kind a i) ∧
    (tableGet (s.bank.get (s.judgingId p)).entries i).action = .logOnly ∧ s.addressFaults p d i ≠ []

/-- The record of a part at its address, by the bank it is judged by (R26, R65). -/
def State.addressRecord (s : State) (p : Port) (r : Reason) (o : RecordOutcome) (kind : AddrKind) (d : Direction)
    (a : Addr) (c : Option Decision) (g : Option SegId) (x : Option Half) : Violation :=
  { sequence := 0, port := p, reason := r, outcome := o, direction := d, kind := kind, address := a,
    entry := Decision.entry? c, segment := g, offset := x, position := 0,
    tag := (s.bank.get (s.judgingId p)).header.tag }

/-- A port that requests a segment would have to wait for it: it is OWNED by the other port, or CLOSING (R98). -/
abbrev State.waitsFor (s : State) (p : Port) (g : SegId) : Prop :=
  ((s.seg.get g).state = .owned ∧ (s.seg.get g).owner = some p.other) ∨ (s.seg.get g).state = .closing

/-- A segment refuses a request with a reason: SEGMENT_UNAVAILABLE when it is out of use, GRANT_TIMEOUT when it would make a
port wait whose wait limit is 0, being OWNED by the other port or CLOSING (R30, R98). -/
def State.refusesRequest (s : State) (p : Port) (g : SegId) (r : Reason) : Prop :=
  (((s.seg.get g).state = .quarantined ∨ (s.seg.get g).state = .disabled) ∧ r = .segmentUnavailable) ∨
    (s.waitsFor p g ∧ (s.limits p).wait = 0 ∧ r = .grantTimeout)

/-- An entry counts violations, and a credit is taken from its bucket if there is one; no other account changes (R63, R64,
R121). -/
def AddressCounted (p : Port) (i : EntryIdx) (n : Nat) (s t : State) : Prop :=
  ∀ k j, tableGet (t.accounts.get k) j =
    if k = s.judgingId p ∧ j = i then
      { tableGet (s.accounts.get k) j with
        violations := satInc^[n] (tableGet (s.accounts.get k) j).violations,
        bucket :=
          if (tableGet (s.bank.get k).entries j).creditLimit.isSome then
            (tableGet (s.accounts.get k) j).bucket.map (· - 1)
          else (tableGet (s.accounts.get k) j).bucket }
    else tableGet (s.accounts.get k) j

/-- One credit is taken from the bucket of the entry a decision names, if it has a limit; no other account changes (R63,
R119). -/
def CreditTaken (p : Port) (d : Decision) (s t : State) : Prop :=
  ∀ k i, tableGet (t.accounts.get k) i =
    if k = s.judgingId p ∧ d = .entry i ∧ (tableGet (s.bank.get k).entries i).creditLimit.isSome then
      { tableGet (s.accounts.get k) i with bucket := (tableGet (s.accounts.get k) i).bucket.map (· - 1) }
    else tableGet (s.accounts.get k) i

/-- Every segment but one: what the port owned of them is being released, the others are as before. -/
def ReleasedBut (g : SegId) (p : Port) (s t : State) : Prop :=
  ∀ h, h ≠ g → t.segCounters.get h = s.segCounters.get h ∧
    t.seg.get h = if (s.session.get p).owned = some h then releasing (s.seg.get h) else s.seg.get h

/-! ## The data phase -/

/-- The Violation Queue after a record of the port's current part, which makes one unless it has made one (R26, R92, R93,
R146). -/
def State.queueWith (s : State) (p : Port) (r : Reason) (o : RecordOutcome) (offset : Option Half) : ViolationQueue :=
  if (s.part p).recorded = true then s.queue else queueAfter s.queue (s.violationOf p r o offset)

/-- Violations are counted for an entry of the bank the port judges by; no other account changes (R92, R121). -/
def ViolationsCounted (n : Nat) (p : Port) (i : EntryIdx) (s t : State) : Prop :=
  ∀ k j, tableGet (t.accounts.get k) j =
    if k = s.judgedId p ∧ j = i then
      { tableGet (s.accounts.get k) j with violations := satInc^[n] (tableGet (s.accounts.get k) j).violations }
    else tableGet (s.accounts.get k) j

/-- One violation is counted. -/
abbrev ViolationCounted (p : Port) (i : EntryIdx) (s t : State) : Prop := ViolationsCounted 1 p i s t

/-- The banks, the Bank Controller, the refill timer, the port counters, the management state, the other port and the
session's captured bank are as before. -/
def KeepsDevice (p : Port) (s t : State) : Prop :=
  t.bank = s.bank ∧ t.bc = s.bc ∧ t.refill = s.refill ∧ t.portCounters = s.portCounters ∧ KeepsManagement s t ∧
    KeepsPort p.other s t ∧ (t.session.get p).bank = (s.session.get p).bank

/-- The port's session is in WRITE with its clock free, in a part with its direction, owning a segment. -/
def State.writing (s : State) (p : Port) (g : SegId) : Prop :=
  s.phase = .inService ∧ (s.session.get p).state = .write ∧ (s.part p).direction = .write ∧
    (s.upi.get p).hold = false ∧ (s.session.get p).owned = some g

/-- The port's part is decided by an entry, and its sub-address bytes are all gathered (R73, R74). -/
def State.pastSubAddress (s : State) (p : Port) (i : EntryIdx) : Prop :=
  (s.part p).decision = some (.entry i) ∧
    (s.part p).sub.length = (tableGet (s.judged p).entries i).width.bytes ∧
    (tableGet (s.judged p).entries i).width.bytes ≤ (s.part p).count.toNat

/-- A write data byte meets no EVERY_BYTE window violation of an entry (R81). -/
def State.writeWindowPasses (s : State) (p : Port) (i : EntryIdx) : Prop :=
  (tableGet (s.judged p).entries i).mode = .everyByte →
    ∀ l o, (tableGet (s.judged p).entries i).writeList = some l → s.pointerFor p i = some o → inList (s.judged p) l o = true

/-- A write data byte does not pass the write length limit of an entry (R83). -/
def State.writeLengthPasses (s : State) (p : Port) (i : EntryIdx) : Prop :=
  ∀ l, (tableGet (s.judged p).entries i).writeLimit = some l → (s.part p).length ≠ l.toNat

/-- The state with a write data byte held and counted, and bytes handed to the Segment Controller to drive in order: no
more (R26, R32, R37, R47, R97). -/
def State.driving (s : State) (p : Port) (g : SegId) (sub : List Byte) (length : Nat) (b : Byte) (rest : List Byte) :
    State :=
  { s with
    session := s.session.set p
      { s.session.get p with
        stretch := some (s.limits p).stretch, abandon := none,
        part := { s.part p with count := satInc (s.part p).count, sub := sub, length := length, held := none } },
    upi := s.upi.set p { s.upi.get p with hold := true },
    seg := s.seg.set g { s.seg.get g with act := some (.send b rest) } }

/-- A requested read byte meets no EVERY_BYTE window violation of an entry (R86). -/
def State.readWindowPasses (s : State) (p : Port) (i : EntryIdx) : Prop :=
  (tableGet (s.judged p).entries i).mode = .everyByte →
    ∀ l o, (tableGet (s.judged p).entries i).readList = some l → s.pointerFor p i = some o → inList (s.judged p) l o = true

/-- A requested read byte does not pass the read length limit of an entry (R88). -/
def State.readLengthPasses (s : State) (p : Port) (i : EntryIdx) : Prop :=
  ∀ l, (tableGet (s.judged p).entries i).readLimit = some l → (s.part p).length ≠ l.toNat

/-- The segment with the ninth bit of its last byte received clocked, if it is owed (R34 to R36). -/
def ninthClocked (a : Ack) (c : Segment) : Segment :=
  if c.ninthOwed then { c with ninthOwed := false, ninthSent := some a } else c

/-- A cut read: FILL, owning nothing, the filler byte presented as the byte asked for with no hold, the pointer and the
remembered address cleared with the ownership, the segment released after the ninth bit is clocked as NACK (R36, R45, R78,
R91; log entry 24). -/
def CutShort (p : Port) (g : SegId) (s t : State) : Prop :=
  (t.session.get p).state = .fill ∧ (t.session.get p).owned = none ∧ (t.session.get p).stretch = none ∧
    (t.upi.get p).hold = false ∧ (t.upi.get p).shift = some s.settings.filler ∧
    (t.part p).count = satInc (s.part p).count ∧ (t.session.get p).pointer = none ∧
    (t.session.get p).remembered = none ∧ t.seg.get g = { releasing (s.seg.get g) with ninthSent := some .nack }

/-! ## The violation record -/

/-- The reason codes of the table of 11_frame_and_record_formats.md 11.4, from 0x01 on in its order. -/
def Reason.number (r : Reason) : Nat :=
  1 + List.idxOf r
    [.noEntry, .portDenied, .direction, .noCredit, .writeWindow, .readWindow, .noPointer, .writeLength, .readLength,
     .generalCall, .grantTimeout, .segmentUnavailable, .targetTimeout, .segmentLost, .abandoned, .aborted]

/-- The weight of a bit of a byte, where the bit is set. -/
def weight (b : Bool) (n : Nat) : Nat := if b then n else 0

/-- The twelve bytes of a violation record, byte by byte (R190). -/
def recordBytes (v : Violation) : List Byte :=
  [BitVec.ofNat 8 (v.sequence.toNat / 256), BitVec.ofNat 8 v.sequence.toNat,
   BitVec.ofNat 8
    (weight (v.port = .up1) 128 + weight (v.direction = .read) 64 + weight (v.kind = .ten) 32 + v.reason.number),
   BitVec.ofNat 8
    (weight (v.outcome = .cut) 64 + weight (v.outcome = .passed) 128 + weight v.entry.isSome 32 +
      weight v.segment.isSome 16 + weight v.offset.isSome 8 + v.address.toNat / 256),
   BitVec.ofNat 8 v.address.toNat, BitVec.ofNat 8 ((v.entry.map (·.val)).getD 0),
   BitVec.ofNat 8
    (if v.segment = some .seg1 then 1 else if v.segment = some .seg2 then 2 else if v.segment = some .seg3 then 3 else 0),
   BitVec.ofNat 8 ((v.offset.getD 0).toNat / 256), BitVec.ofNat 8 (v.offset.getD 0).toNat, v.position,
   BitVec.ofNat 8 (v.tag.toNat / 256), BitVec.ofNat 8 v.tag.toNat]

/-! ## Management frames -/

/-- The Management Agent executes a whole frame of the port now: in service, management enabled, no command of the port in
progress, no frame of it begun (R159, R160, R162; log entry 11). -/
def State.serves (s : State) (p : Port) : Prop :=
  s.phase = .inService ∧ s.straps.mgmten.get p = true ∧ s.job.get p = none ∧ (s.parser.get p).state = .awaitCommand

/-- The idle timer after a frame of the port: the holder's frame starts it again (R163, R167). -/
def State.idleAfter (s : State) (p : Port) : Option Byte :=
  if s.holder = some p then some s.settings.idleTimeout else s.idle

/-- The state with the port's slot answered (R164) and the idle timer started by a frame of the holder: no more. -/
def State.answered (s : State) (p : Port) (t : Status) (payload : List Byte) : State :=
  { s with slot := s.slot.set p ⟨t, payload⟩, idle := s.idleAfter p }

/-- The state with a long command of the port under way, its slot at IN_PROGRESS (R168), and the idle timer started by a
frame of the holder: no more. -/
def State.underWay (s : State) (p : Port) (j : LongCommand) : State :=
  { s with slot := s.slot.set p ⟨.inProgress, []⟩, job := s.job.set p (some j), idle := s.idleAfter p }

/-- The port, the command byte and the argument bytes of the frame that carries a management command (R188). -/
def frameOf : Instr → Option (Port × Byte × List Byte)
  | .sessionOpen p => some (p, 0x01, [])
  | .sessionClose p => some (p, 0x02, [])
  | .statusRead p c => some (p, 0x03, [c])
  | .identRead p => some (p, 0x04, [])
  | .settingsRead p => some (p, 0x05, [])
  | .violationRead p => some (p, 0x06, [])
  | .headerRead p k => some (p, 0x10, [k])
  | .entryRead p k i => some (p, 0x11, [k, i])
  | .windowRead p k i => some (p, 0x12, [k, i])
  | .counterRead p k i => some (p, 0x13, [k, i])
  | .segmentStatus p g => some (p, 0x14, [g])
  | .headerWrite p l => some (p, 0x21, l)
  | .entryWrite p i l => some (p, 0x22, i :: l)
  | .entryClear p i => some (p, 0x23, [i])
  | .windowWrite p i l => some (p, 0x24, i :: l)
  | .shadowReload p => some (p, 0x28, [])
  | .commit p x => some (p, 0x29, be16 x)
  | .lockdown p => some (p, 0x2A, [])
  | .violationAck p n => some (p, 0x30, [n])
  | .countersClear p => some (p, 0x31, [])
  | .settingsWrite p l => some (p, 0x32, l)
  | .segmentDisable p g => some (p, 0x40, [g])
  | .segmentEnable p g => some (p, 0x41, [g])
  | .segmentRelease p g => some (p, 0x42, [g])
  | .abortAll p => some (p, 0x4F, [])
  | _ => none

/-- A holder command whose frame has the argument length the catalogue gives it (R163, 09_the_management_channel.md
9.7). -/
def holderCommand (c : Instr) : Prop :=
  c.wellFormed = true ∧ ∃ p code args, frameOf c = some (p, code, args) ∧ 0x21 ≤ code.toNat

/-- The state with the port's slot answered (R161, R163), no timer touched: no more. -/
def State.slotted (s : State) (p : Port) (t : Status) : State := { s with slot := s.slot.set p ⟨t, []⟩ }

/-- The state with the port's parser ready for the next write part (R161). -/
def State.parserFresh (s : State) (p : Port) : State :=
  { s with
    parser := s.parser.set p
      { state := .awaitCommand, command := 0, length := 0, args := [], received := 0, running := 0xFF } }

/-- A write frame of the port ends: what the rows of R161 say of each parser state, a command of the catalogue with its
arguments acting as its row does (R163). -/
def FrameEnds (p : Port) (s t : State) : Prop :=
  let r := s.parser.get p
  let u := s.parserFresh p
  (r.state = .awaitCommand ∨ r.state = .refused → t = u) ∧
    (r.state = .awaitLength ∨ r.state = .awaitArguments ∨ r.state = .awaitCrc ∨ r.state = .overlength →
      t = u.slotted p .badLength) ∧
    (r.state = .complete → r.received ≠ r.running →
      t =
        { u.slotted p .badCrc with
          portCounters := s.portCounters.set p
            { s.portCounters.get p with crcErrors := satInc (s.portCounters.get p).crcErrors } }) ∧
    (r.state = .complete → r.received = r.running →
      (commandOfByte r.command = none → t = u.slotted p .badCommand) ∧
        ((commandOfByte r.command).isSome → (∀ c, frameOf c ≠ some (p, r.command, r.args)) →
          t = u.slotted p .badLength) ∧
        ∀ c, frameOf c = some (p, r.command, r.args) → exec c u = .next t)

/-! ## Waiters and long commands of a segment -/

/-- The Violation Queue after a record of a port's part without an offset, unless the part has made one (R26). -/
def State.recordedIn (s : State) (p : Port) (r : Reason) (o : RecordOutcome) (q : ViolationQueue) : ViolationQueue :=
  if (s.part p).recorded = true then q else queueAfter q (s.violationOf p r o none)

/-- The Violation Queue after ports are refused SEGMENT_UNAVAILABLE in list order (R99). -/
def State.refusedIn (s : State) (l : List Port) (q : ViolationQueue) : ViolationQueue :=
  l.foldl (fun q p => s.recordedIn p .segmentUnavailable .refused q) q

/-- Ports that may stand in a waiter list: each once, held, owning nothing (R43, R47, R98). -/
def State.waitersHeld (s : State) (l : List Port) : Prop :=
  l.Nodup ∧ ∀ p ∈ l, (s.upi.get p).hold = true ∧ (s.session.get p).owned = none

/-- The ports of a list are refused SEGMENT_UNAVAILABLE; the others are as before (R99). -/
def Refused (l : List Port) (s t : State) : Prop :=
  (∀ p ∈ l, Discarding p t ∧ (t.part p).decision = some (.refused .segmentUnavailable)) ∧
    ∀ p, p ∉ l → KeepsPort p s t

/-- The slot and the long command of a port after the close procedure of a segment, or its way to DISABLED, ends in a state
with a quarantine reason (R104, R109 to R112, R168, R176, R177): ABORT_ALL goes on waiting for the rest of its segments,
and reports all four states once it waits for none. -/
def State.jobAfter (s : State) (g : SegId) (t : SegState) (r : QuarantineReason) (p : Port) :
    Slot × Option LongCommand :=
  let same := (s.slot.get p, s.job.get p)
  let entered : Slot × Option LongCommand := (⟨.ok, [SegState.code t, QuarantineReason.code r]⟩, none)
  match s.job.get p with
  | some (.segmentDisable h) => if h = g ∧ t = .disabled then (⟨.ok, []⟩, none) else same
  | some (.segmentEnable h) => if h = g then entered else same
  | some (.segmentRelease h) => if h = g then entered else same
  | some (.abortAll n l) =>
    if g ∈ l then
      if l.erase g = [] then
        (⟨.ok,
          BitVec.ofNat 8 n :: [SegId.seg0, .seg1, .seg2, .seg3].map fun h =>
            SegState.code (if h = g then t else (s.seg.get h).state)⟩, none)
      else (s.slot.get p, some (.abortAll n (l.erase g)))
    else same
  | some .commit => same
  | some .shadowReload => same
  | none => same

/-- Both ports' slots and long commands are those after a segment's state is reported (R168). -/
def JobsReported (g : SegId) (x : SegState) (r : QuarantineReason) (s t : State) : Prop :=
  ∀ p, (t.slot.get p, t.job.get p) = s.jobAfter g x r p

/-! ## Parts an abort reaches -/

/-- A segment after a port that waits in GRANT_WAIT for it withdraws, from its waiter list or with its request that waits
for the STOP of a release (R99; log entry 5). -/
def State.withdrawn (s : State) (q : Port) (g : SegId) (c : Segment) : Segment :=
  if (s.session.get q).state = .grantWait ∧ (s.part q).segment = some g then
    { c with waiters := c.waiters.erase q, deferred := c.deferred.erase (.request q) }
  else c

/-- The record the abort of a port's part makes, if it has a part to abort that has made none (R49, R93). -/
def State.abortRecord (s : State) (p : Port) (q : ViolationQueue) : ViolationQueue :=
  if s.relaying p = true ∧ (s.part p).recorded = false then
    queueAfter q
      (s.violationOf p .aborted
        (if (s.session.get p).state = .grantWait ∨ (s.session.get p).state = .connect then .refused else .cut) none)
  else q

/-- The session of a port as an abort leaves it: what it owned is lost; a held address or write byte is answered by NACK, a
held read request by the filler byte, and a session with no part to abort goes on (R49). -/
def Aborted (p : Port) (s t : State) : Prop :=
  let e := s.session.get p
  (t.session.get p).owned = none ∧ (t.session.get p).bank = e.bank ∧
    (e.state = .grantWait ∨ e.state = .connect → (t.part p).decision = some (.refused .aborted)) ∧
    (e.state = .grantWait ∨ e.state = .connect ∨ e.state = .write →
      (t.session.get p).state = .discard ∧ ((s.upi.get p).hold = true → Discarding p t)) ∧
    (e.state = .read → (t.session.get p).state = .fill ∧
      ((s.upi.get p).hold = true → Freed p s t ∧ (t.upi.get p).shift = some s.settings.filler)) ∧
    (s.relaying p = false → (t.session.get p).state = e.state ∧ t.part p = s.part p ∧ t.upi.get p = s.upi.get p)

end Sys2Proof.Machine
end

