-- ==== Sys2Proof/Certificates/Slice0/Obligations.lean ====
section
/-!
DEFINITION. The statements for the provers: what the rules of spec/ say the commands of the FH4200 do.
-/

open Sys2Proof Sys2Proof.Machine

/-! ## The queue of commands -/

/-- A step takes the command at the front of the queue and runs it on the rest; on an empty queue the block idles
(log entry 2: the queue and the idling are the model's choice). -/
def Obligations.StepTakesFront : Prop :=
  (∀ (c : Instr) (rest : List Instr) (s : State),
      s.pending = c :: rest → step s = exec c { s with pending := rest }) ∧
    (∀ (c : Instr) (s : State), step (s.withCommand c) = exec c s) ∧ ∀ s : State, s.pending = [] → step s = .next s

/-- Every command answers a next state and leaves the commands that wait as they are: no command stops. -/
def Obligations.EveryCommandAnswersNext : Prop :=
  ∀ (c : Instr) (s : State), ∃ t, exec c s = .next t ∧ t.pending = s.pending

/-! ## Resets -/

/-- While a reset lasts, every command but the four of a reset changes nothing (R184). -/
def Obligations.ResetTakesNoEvent : Prop :=
  ∀ (c : Instr) (s : State), s.phase ≠ .inService → resetCommand c = false → exec c s = .next s

/-- The state after a power-on reset (10_settings_straps_and_start_up.md 10.5). The model's own in it: the straps, of
which DEFPOL low gives the DENY header (log entry 1), the running hold timers (log entry 8), and the values of what no
table of the spec lists (log entry 22). -/
def Obligations.ResetStateValues : Prop :=
  let s := State.reset
  StartsFresh s ∧ s.pending = [] ∧ (∀ k, HasResetContents false (s.bank.get k)) ∧ s.bc.active = .a ∧
    s.bc.shadow = .editable ∧ s.bc.locked = false ∧
    (∀ p, s.settings.port.get p =
      { stretch := 10, abandon := 30, wait := 5,
        mask := { queue := true, segmentEvent := true, commitDone := false, overflow := false } }) ∧
    s.settings.filler = 0xFF ∧ s.settings.holdLimit = 25 ∧ s.settings.watermark = 1 ∧ s.settings.idleTimeout = 10 ∧
    (∀ g, s.settings.speed.get g = .khz100) ∧
    ∀ p, (s.session.get p).state = .idle ∧ (s.session.get p).bank = none ∧ (s.session.get p).owned = none ∧
      (s.session.get p).remembered = none ∧ (s.session.get p).pointer = none ∧ (s.part p).decision = none ∧
      (s.part p).count = 0 ∧ (s.part p).held = none ∧ (s.part p).recorded = false

/-- A reset begins: every line is released, every session, wait, act, timer, commit and long command is dropped, and the
straps, the settings and both banks are kept (R51, R114, R144, R158, R184; what RESET_N low changes at once: log entry
17). A reset that is joined by the other kind becomes, or stays, a power-on reset (R183). -/
def Obligations.ResetBegins : Prop :=
  ∀ s : State,
    let cut (ph : ResetPhase) : State :=
      { s with
        phase := ph, upi := .both quietUpi, session := .both idleSession,
        seg := PerSeg.of fun g =>
          { s.seg.get g with
            owner := none, waiters := [], deferred := [], reason := .none, disablePending := false, hold := none,
            act := none, ninthOwed := false },
        bc := { s.bc with holders := ⟨0, 0⟩, commit := none }, refill := none, alert := ⟨.high, .high⟩,
        job := ⟨none, none⟩, idle := none }
    (s.phase = .inService → exec .resetNLow s = .next { cut .resetN with resetPin := .low }) ∧
      (s.phase ≠ .inService → exec .resetNLow s = .next { s with resetPin := .low }) ∧
      exec .powerOnReset s = .next (cut (.powerOn false))

/-- A RESET_N reset ends at RESET_N high: straps latched, settings kept; with lockdown clear the reset contents in both
banks, with lockdown set the active bank kept and its locked copy beside it (R144, R145, R183, R185, R186). The model's
own in StartsFresh: the running hold timers (log entry 8) and the values of what no table of the spec lists (log entry
22). -/
def Obligations.ResetNEnds : Prop :=
  ∀ (pins : StrapPins) (s : State), s.phase = .resetN →
    ∃ t, exec (.resetNHigh pins) s = .next t ∧ StartsFresh t ∧ t.pending = s.pending ∧ t.straps = latchStraps pins ∧
      t.settings = s.settings ∧
      (s.bc.locked = false →
        t.bc.active = .a ∧ t.bc.shadow = .editable ∧ t.bc.locked = false ∧
          ∀ k, HasResetContents (pins.defpol = .high) (t.bank.get k)) ∧
      (s.bc.locked = true →
        t.bc.active = s.bc.active ∧ t.bc.shadow = .locked ∧ t.bc.locked = true ∧
          ∀ k, t.bank.get k = s.bank.get s.bc.active)

/-- A power-on reset ends when its interval has passed with RESET_N high, or at RESET_N high after it has passed:
default settings, reset contents, lockdown clear. Until then RESET_N low extends it (R23, R143, R144, R183, R185). With
the strap inputs the model names it ends in State.reset (log entry 1). The model's own in StartsFresh: the running hold
timers (log entry 8) and the values of what no table of the spec lists (log entry 22). -/
def Obligations.PowerOnEnds : Prop :=
  ∀ (pins : StrapPins) (s : State),
    let ended (t : State) : Prop :=
      StartsFresh t ∧ t.pending = s.pending ∧ t.straps = latchStraps pins ∧ t.settings = State.reset.settings ∧
        t.bc.active = .a ∧ t.bc.shadow = .editable ∧ t.bc.locked = false ∧
        ∀ k, HasResetContents (pins.defpol = .high) (t.bank.get k)
    (∀ b, s.phase = .powerOn b → s.resetPin = .high → ∃ t, exec (.powerOnResetEnd pins) s = .next t ∧ ended t) ∧
      (∀ b, s.phase = .powerOn b → s.resetPin = .low →
        exec (.powerOnResetEnd pins) s = .next { s with phase := .powerOn true }) ∧
      (s.phase = .powerOn true → ∃ t, exec (.resetNHigh pins) s = .next t ∧ ended t) ∧
      (s.phase = .powerOn false → exec (.resetNHigh pins) s = .next { s with resetPin := .high }) ∧
      ∀ b, s.phase = .powerOn b → s.resetPin = .high →
        exec (.powerOnResetEnd Config.resetPins) s = .next { State.reset with pending := s.pending, choice := s.choice }

/-! ## What every step keeps -/

/-- What every step keeps holds after reset. -/
def Obligations.ResetStateSafe : Prop := Safe State.reset

/-- The Violation Queue keeps at most 32 records, their sequence numbers consecutive up to the next one, and the Settings
record stays in its ranges (R148, R149, R179). -/
def Obligations.QueueAndSettingsStayInRange : Prop :=
  ∀ s t : State, step s = .next t →
    (QueueSafe s.queue → QueueSafe t.queue) ∧ (SettingsSafe s.settings → SettingsSafe t.settings)

/-- Each alert line stays at the level its mask, the queue and its flags give (R157, R158). -/
def Obligations.AlertLinesFollow : Prop :=
  ∀ s t : State, SettingsSafe s.settings → AlertsSafe s → step s = .next t → AlertsSafe t

/-- A holder count stays the number of sessions that captured the bank, and the shadow drains, validates and is locked
exactly while a session holds it, a commit is in progress, lockdown is set (R126, R128, R139 to R142). -/
def Obligations.HoldersAndShadowAgree : Prop :=
  ∀ s t : State, HoldersSafe s → ShadowSafe s → step s = .next t → HoldersSafe t ∧ ShadowSafe t

/-- A slot stays IN_PROGRESS exactly while a command of its port is in progress (R164). -/
def Obligations.SlotsShowProgress : Prop := ∀ s t : State, SlotsSafe s → step s = .next t → SlotsSafe t

/-- A segment that a session owns stays OWNED by that port; the ports that seek a segment, waiting in its list or with
a request that waits for the STOP of a release, are in GRANT_WAIT for it, each once; and something waits for such a
STOP only on a segment that is OWNED without an owner (R43, R94, R97 to R100; log entries 5 and 6). -/
def Obligations.OwnersAndWaitersAgree : Prop :=
  ∀ s t : State, OwnersSafe s → WaitersSafe s → step s = .next t → OwnersSafe t ∧ WaitersSafe t

/-- DUPLICATE: two valid entries of one kind and match address that both grant one port an access clash; the index is
the lowest that clashes with a lower one; no step makes a bank with such a pair active; and without one a lookup finds
at most one entry that grants (R22). -/
def Obligations.ActiveBankHasNoDuplicate : Prop :=
  let clash (k : Bank) (i j : EntryIdx) : Prop :=
    (tableGet k.entries i).valid = true ∧ (tableGet k.entries j).valid = true ∧
      (tableGet k.entries i).kind = (tableGet k.entries j).kind ∧
      (tableGet k.entries i).matchAddr = (tableGet k.entries j).matchAddr ∧
      ∃ p, (tableGet k.entries i).access.get p ≠ .none ∧ (tableGet k.entries j).access.get p ≠ .none
  let clear (s : State) : Prop := ∀ i j, i ≠ j → ¬ clash (s.bank.get s.bc.active) i j
  (∀ (k : Bank) (j : EntryIdx),
      duplicateIndex k = some j ↔ (∃ i, i < j ∧ clash k i j) ∧ ∀ j', j' < j → ∀ i, i < j' → ¬ clash k i j') ∧
    (∀ (m : Addr) (x : Half) (k : Bank), bankCrc k = x → (∀ i, entryFailure m k i = none) →
      commitFailure m x k = (duplicateIndex k).map fun j => ⟨.duplicate, BitVec.ofNat 16 j.val⟩) ∧
    (∀ s t : State, clear s → step s = .next t → clear t) ∧
    ∀ (s : State) (p : Port) (kind : AddrKind) (a : Addr) (i j : EntryIdx), clear s →
      let k := s.bank.get s.bc.active
      (tableGet k.entries i).claims kind a = true → (tableGet k.entries i).access.get p ≠ .none →
      (tableGet k.entries j).claims kind a = true → (tableGet k.entries j).access.get p ≠ .none → i = j

/-- A bucket of the active bank stays within its entry's credit limit, and an entry has one exactly while it is valid with
a limit (R116 to R119). -/
def Obligations.CreditStaysWithinLimit : Prop := ∀ s t : State, CreditSafe s → step s = .next t → CreditSafe t

/-- Every header, entry and window of both banks stays one that its field checks accept (R2, R12 to R16). -/
def Obligations.BanksStayWritable : Prop := ∀ s t : State, BanksSafe s → step s = .next t → BanksSafe t

/-- While lockdown is set, nothing but a power-on reset changes the active bank, its contents or the lockdown
(R127, R142, R143, R145). -/
def Obligations.LockdownFixesPolicy : Prop :=
  let fixed (s : State) : Prop :=
    s.bc.locked = true ∧ s.bc.shadow = .locked ∧ s.bc.commit = none ∧ ∀ b, s.phase ≠ .powerOn b
  ∀ (c : Instr) (s t : State), fixed s → c ≠ .powerOnReset → exec c s = .next t →
    fixed t ∧ t.bc.active = s.bc.active ∧ t.bank.get t.bc.active = s.bank.get s.bc.active

/-! ## START, repeated START and STOP -/

/-- A START in IDLE: ADDRESS, the abandon timer starts, no bank is captured, and nothing else changes (R27, R48). -/
def Obligations.StartOpensSession : Prop :=
  ∀ (p : Port) (s : State), s.phase = .inService → (s.session.get p).state = .idle →
    exec (.start p) s = .next
      { s with
        session := s.session.set p { s.session.get p with state := .address, abandon := some (s.limits p).abandon },
        upi := s.upi.set p { phase := .receive, hold := false, shift := none, ninth := none } }

/-- A repeated START, or a START in a session that is not IDLE (R24), ends the part: ADDRESS, a part with nothing
judged, and the captured bank, pointer, remembered address, segment and abandon timer kept (R43, R71). That the whole
part is cleared here, before the next address byte clears it, is log entry 16, and the kind, address, segment and
target of a part with nothing judged are log entry 22: both are the model's. A write part in MGMT also ends its frame,
which FrameEndActs states. -/
def Obligations.RepeatedStartKeepsSession : Prop :=
  ∀ (p : Port) (s : State), s.phase = .inService →
    ((s.session.get p).state ≠ .idle → exec (.start p) s = exec (.repeatedStart p) s) ∧
      (s.free p = true → ¬((s.session.get p).state = .mgmt ∧ (s.part p).direction = .write) →
        exec (.repeatedStart p) s = .next
          { s with
            session := s.session.set p
              { s.session.get p with
                state := .address,
                part :=
                  { decision := none, direction := .write, count := 0, held := none, sub := [], recorded := false,
                    length := 0, kind := .seven, address := 0, segment := none, target := 0 } },
            upi := s.upi.set p { phase := .receive, hold := false, shift := none, ninth := none },
            readback := s.readback.set p [] })

/-- A STOP ends a session whose clock is free: IDLE, pointer and remembered address cleared, the captured bank released,
the last release of a draining shadow beginning its reload, and an owned segment released with its STOP; in IDLE, or
while the clock is held, it does nothing (R27, R28, R42, R78, R141). A write part in MGMT also ends its frame, which
FrameEndActs states. -/
def Obligations.StopEndsSession : Prop :=
  ∀ (p : Port) (s : State), s.phase = .inService →
    (s.free p = false → exec (.stop p) s = .next s) ∧
      (s.free p = true → ¬((s.session.get p).state = .mgmt ∧ (s.part p).direction = .write) →
        ∃ t, exec (.stop p) s = .next t ∧ (t.session.get p).state = .idle ∧ (t.session.get p).bank = none ∧
          (t.session.get p).owned = none ∧ (t.session.get p).pointer = none ∧ (t.session.get p).remembered = none ∧
          (t.session.get p).abandon = none ∧ (t.part p).held = none ∧ (t.upi.get p).phase = .quiet ∧
          Released p s t ∧ t.segCounters = s.segCounters ∧
          (∀ k, t.bc.holders.get k =
            if (s.session.get p).bank = some k then s.bc.holders.get k - 1 else s.bc.holders.get k) ∧
          t.bc.shadow =
            (if s.bc.shadow = .draining ∧ (s.session.get p).bank = some s.shadowId ∧ s.bc.holders.get s.shadowId - 1 = 0
             then .reloading else s.bc.shadow) ∧
          t.bc.active = s.bc.active ∧ t.bc.dirty = s.bc.dirty ∧ t.bc.locked = s.bc.locked ∧ t.bc.commit = s.bc.commit ∧
          KeepsPolicy s t ∧ KeepsRecords s t ∧ KeepsPort p.other s t ∧ t.slot = s.slot ∧ t.job = s.job ∧
          t.parser = s.parser ∧ t.holder = s.holder ∧ t.idle = s.idle ∧ t.settings = s.settings)

/-- An edge of the upstream clock starts the abandon timer again in a session whose clock is free, and changes nothing
else (R48). -/
def Obligations.ClockEdgeRestartsAbandon : Prop :=
  ∀ (p : Port) (e : Edge) (s : State), s.phase = .inService →
    (s.free p = true →
      exec (.upstreamSclEdge p e) s = .next
        { s with
          session := s.session.set p { s.session.get p with abandon := some (s.limits p).abandon } }) ∧
      (s.free p = false → exec (.upstreamSclEdge p e) s = .next s)

/-! ## Address bytes -/

/-- The first address byte of a session captures the active bank and raises its holder count; a later one captures
nothing. The part is new: the direction of its byte, its counts at 0; only a read of the response slot has presented a
byte already, and counts 1 (R26, R28, R46, R71, R165). -/
def Obligations.FirstAddressByteCaptures : Prop :=
  ∀ (p : Port) (b : Byte) (s : State), s.phase = .inService → (s.session.get p).state = .address →
    (s.part p).held = none →
    ∃ t, exec (.addressByte p b) s = .next t ∧
      (t.session.get p).bank = some ((s.session.get p).bank.getD s.bc.active) ∧
      (∀ k, t.bc.holders.get k =
        if (s.session.get p).bank = none ∧ k = s.bc.active then s.bc.holders.get k + 1 else s.bc.holders.get k) ∧
      (t.part p).direction = byteDirection b ∧
      (t.part p).count =
        (if isTenBitFirst b = false ∧ addr7 (addressBits b) = 0x58#10 + s.straps.maddr.setWidth 10 ∧
            s.straps.mgmten.get p = true ∧ byteDirection b = .read then 1 else 0) ∧
      (t.part p).held =
        (if isTenBitFirst b = true ∧ byteDirection b = .write ∧ (t.session.get p).state = .address then some b
         else none) ∧
      (t.part p).sub = [] ∧ (t.part p).length = 0 ∧
      t.bank = s.bank ∧ t.bc = { s.bc with holders := t.bc.holders } ∧ KeepsPort p.other s t

/-- A 7-bit address equal to the management address is not looked up. With management enabled it is acknowledged and
the session enters MGMT: a write starts the frame parser on the address byte, a read presents the first byte of a copy
of the slot. With management disabled it is not acknowledged: DISCARD. Neither makes a record, and a segment the
session kept is released (R29, R43, R46, R53, R159, R160, R165; the decision field of a disabled part: log entry
15). -/
def Obligations.ManagementAddressTaken : Prop :=
  ∀ (p : Port) (b : Byte) (s : State), s.phase = .inService → (s.session.get p).state = .address →
    (s.part p).held = none → isTenBitFirst b = false →
    addr7 (addressBits b) = 0x58#10 + s.straps.maddr.setWidth 10 →
    ∃ t, exec (.addressByte p b) s = .next t ∧ Released p s t ∧ (t.session.get p).owned = none ∧ KeepsRecords s t ∧
      KeepsPolicy s t ∧ t.segCounters = s.segCounters ∧ t.slot = s.slot ∧ t.job = s.job ∧ t.holder = s.holder ∧
      (t.upi.get p).hold = false ∧ (t.part p).decision = some .management ∧
      (s.straps.mgmten.get p = false →
        Discarding p t ∧ t.parser = s.parser ∧ t.readback = s.readback) ∧
      (s.straps.mgmten.get p = true →
        (t.session.get p).state = .mgmt ∧ (t.upi.get p).ninth = some .ack ∧
          (byteDirection b = .write →
            (t.parser.get p).state = .awaitCommand ∧ (t.parser.get p).args = [] ∧
              (t.parser.get p).running = crc8 0xFF [b]) ∧
          (byteDirection b = .read →
            (t.upi.get p).phase = .send ∧ (t.upi.get p).shift = some (Status.code (s.slot.get p).status) ∧
              some (Status.code (s.slot.get p).status) = (slotFrame b (s.slot.get p)).head? ∧
              t.readback.get p = (slotFrame b (s.slot.get p)).tail ∧ t.parser = s.parser))

/-- An address that reaches no entry is refused, with the record of R65: GENERAL_CALL for a read of 0x00 or a blocked
write to it; NO_ENTRY for a reserved 7-bit address, and for a 7-bit or 10-bit one that no entry claims under DENY (R29,
R38, R41, R54 to R56, R60). -/
def Obligations.AddressRefusedWithoutEntry : Prop :=
  ∀ (p : Port) (b : Byte) (s : State) (kind : AddrKind) (d : Direction) (a : Addr) (r : Reason),
    s.completes p b kind d a →
    let k := s.bank.get (s.judgingId p)
    ((kind = .seven ∧ a = 0 ∧ (d = .read ∨ k.header.generalCallAction = .block) ∧ r = .generalCall) ∨
      (kind = .seven ∧ ((1 ≤ a.toNat ∧ a.toNat ≤ 7) ∨ (0x7C ≤ a.toNat ∧ a.toNat ≤ 0x7F)) ∧ r = .noEntry) ∨
      (lookedUp kind a ∧ (∀ i, (tableGet k.entries i).claims kind a = false) ∧
        k.header.defaultAction = .deny ∧ r = .noEntry)) →
    ∃ t, exec (.addressByte p b) s = .next t ∧ Discarding p t ∧ (t.part p).decision = some (.refused r) ∧
      (t.part p).recorded = true ∧ Released p s t ∧ t.segCounters = s.segCounters ∧
      t.queue = queueAfter s.queue (s.addressRecord p r .refused kind d a none none none) ∧
      KeepsPolicy s t ∧ KeepsManagement s t ∧ KeepsPort p.other s t

/-- An entry under REFUSE refuses an address, 7-bit or 10-bit, it is decided against: PORT_DENIED when entries claim
the address and none grants the port (the lowest of them), and for the one entry that grants: DIRECTION, NO_POINTER,
READ_WINDOW with the pointer's offset, NO_CREDIT. The entry's violation counter of the captured bank rises, no credit
is taken, and the record names the entry and its segment (R38, R41, R58, R59, R61 to R65, R121). -/
def Obligations.AddressRefusedByEntry : Prop :=
  ∀ (p : Port) (b : Byte) (s : State) (kind : AddrKind) (d : Direction) (a : Addr) (i : EntryIdx) (r : Reason)
    (o : Option Half), s.completes p b kind d a → lookedUp kind a →
    let id := s.judgingId p
    let k := s.bank.get id
    let e := tableGet k.entries i
    let usable : Option Half := s.pointerFor p i
    let allowed : Prop := s.grantedBy p kind a i ∧ (e.access.get p).allows d = true
    e.action = .refuse →
    ((r = .portDenied ∧ o = none ∧ s.deniedBy p kind a i) ∨
      (r = .direction ∧ o = none ∧ s.grantedBy p kind a i ∧ (e.access.get p).allows d = false) ∨
      (r = .noPointer ∧ o = none ∧ allowed ∧ d = .read ∧ e.readList.isSome ∧ usable = none) ∨
      (r = .readWindow ∧ allowed ∧ d = .read ∧ e.mode = .atStart ∧ o = usable ∧
        ∃ l x, e.readList = some l ∧ usable = some x ∧ inList k l x = false) ∨
      (r = .noCredit ∧ o = none ∧ allowed ∧ e.creditLimit.isSome ∧
        (tableGet (s.accounts.get id) i).bucket = some 0 ∧
        (d = .read → ∀ l, e.readList = some l →
          ∃ x, usable = some x ∧ (e.mode = .atStart → inList k l x = true)))) →
    ∃ t, exec (.addressByte p b) s = .next t ∧ Discarding p t ∧ (t.part p).decision = some (.refused r) ∧
      (t.part p).recorded = true ∧ Released p s t ∧ t.segCounters = s.segCounters ∧
      t.queue =
        queueAfter s.queue (s.addressRecord p r .refused kind d a (some (.entry i)) (some e.segment) o) ∧
      (∀ l j, tableGet (t.accounts.get l) j =
        if l = id ∧ j = i then
          { tableGet (s.accounts.get l) j with violations := satInc (tableGet (s.accounts.get l) j).violations }
        else tableGet (s.accounts.get l) j) ∧
      t.bank = s.bank ∧ KeepsManagement s t ∧ KeepsPort p.other s t

/-- A forwarded part, 7-bit or 10-bit, meets an IDLE segment: it is granted at once, the grants counter rises, the
speed is latched, and START with the target address is driven inside the hold: one byte, or the two of a 10-bit write
(R30, R31, R38, R66, R98, R113, R122). -/
def Obligations.ForwardGrantedByIdleSegment : Prop :=
  ∀ (p : Port) (b : Byte) (s : State) (kind : AddrKind) (d : Direction) (a : Addr) (c : Decision) (g : SegId) (x : Addr),
    s.completes p b kind d a → s.forwards p kind d a c g x →
    (s.session.get p).owned ≠ some g → (s.seg.get g).state = .idle →
    ∃ t, exec (.addressByte p b) s = .next t ∧ (t.session.get p).state = .connect ∧ (t.session.get p).owned = some g ∧
      (t.session.get p).wait = none ∧ Holding p s t ∧ (t.part p).decision = some c ∧ (t.part p).segment = some g ∧
      (t.part p).target = x ∧ (t.part p).address = a ∧ (t.part p).kind = kind ∧ (t.part p).direction = d ∧
      (t.part p).held = none ∧ (t.part p).recorded = false ∧
      t.seg.get g =
        { s.seg.get g with
          state := .owned, owner := some p, waiters := (s.seg.get g).waiters.erase p,
          speed := s.settings.speed.get g,
          act := some (.address false (targetBytes kind d x).1 (targetBytes kind d x).2), ninthOwed := false } ∧
      t.segCounters.get g = { s.segCounters.get g with grants := satInc (s.segCounters.get g).grants } ∧
      ReleasedBut g p s t ∧ CreditTaken p c s t ∧ t.bank = s.bank ∧ t.refill = s.refill ∧ KeepsRecords s t ∧
      KeepsManagement s t ∧ KeepsPort p.other s t

/-- A forwarded part, 7-bit or 10-bit, whose segment the session kept across a repeated START is not requested or granted
anew: a repeated START with the target address is driven, for a read of the remembered 10-bit address with its one byte
11110yy1 (R30, R31, R41, R43, R122). -/
def Obligations.ForwardKeepsOwnSegment : Prop :=
  ∀ (p : Port) (b : Byte) (s : State) (kind : AddrKind) (d : Direction) (a : Addr) (c : Decision) (g : SegId) (x : Addr),
    s.completes p b kind d a → s.forwards p kind d a c g x → (s.session.get p).owned = some g →
    ∃ t, exec (.addressByte p b) s = .next t ∧ (t.session.get p).state = .connect ∧ (t.session.get p).owned = some g ∧
      (t.session.get p).pointer = (s.session.get p).pointer ∧
      (t.session.get p).remembered = (s.session.get p).remembered ∧ Holding p s t ∧ (t.part p).decision = some c ∧
      t.seg.get g =
        { s.seg.get g with
          act := some (.address true (targetBytes kind d x).1 (targetBytes kind d x).2), ninthOwed := false } ∧
      KeepsOtherSegs g s t ∧ t.segCounters = s.segCounters ∧ CreditTaken p c s t ∧ t.bank = s.bank ∧
      KeepsRecords s t ∧ KeepsManagement s t ∧ KeepsPort p.other s t

/-- A forwarded part, 7-bit or 10-bit, meets a segment OWNED by the other port or CLOSING: the port is appended to the
waiter list, its wait timer starts and the hold goes on. On a segment that has been released and whose STOP is still
being driven, the request waits for that STOP with no wait timer, whatever the wait limit (log entry 5), and is
answered as SegmentSettles says (R30, R38, R67, R98, R100). -/
def Obligations.ForwardWaitsForSegment : Prop :=
  ∀ (p : Port) (b : Byte) (s : State) (kind : AddrKind) (d : Direction) (a : Addr) (c : Decision) (g : SegId) (x : Addr),
    s.completes p b kind d a → s.forwards p kind d a c g x →
    (s.session.get p).owned ≠ some g →
    let waits (w : Option Byte) (g' : Segment) : Prop :=
      ∃ t, exec (.addressByte p b) s = .next t ∧ (t.session.get p).state = .grantWait ∧ (t.session.get p).owned = none ∧
        (t.session.get p).wait = w ∧ Holding p s t ∧ (t.part p).decision = some c ∧ (t.part p).segment = some g ∧
        t.seg.get g = g' ∧ t.segCounters = s.segCounters ∧ ReleasedBut g p s t ∧ CreditTaken p c s t ∧
        t.bank = s.bank ∧ KeepsRecords s t ∧ KeepsManagement s t ∧ KeepsPort p.other s t
    (s.waitsFor p g → (s.limits p).wait ≠ 0 →
        waits (some (s.limits p).wait) { s.seg.get g with waiters := (s.seg.get g).waiters ++ [p] }) ∧
      ((s.seg.get g).state = .owned → (s.seg.get g).owner = none →
        waits (s.session.get p).wait { s.seg.get g with deferred := (s.seg.get g).deferred ++ [.request p] })

/-- A forwarded part, 7-bit or 10-bit, is refused by its segment whatever its entry's action: SEGMENT_UNAVAILABLE by a
QUARANTINED or DISABLED one, GRANT_TIMEOUT at once by one OWNED by the other port or CLOSING when the wait limit is 0.
The record names the entry and the segment, a credit taken stays taken, no counter of an entry changes (R30, R38, R63,
R67, R98, R121). -/
def Obligations.ForwardRefusedBySegment : Prop :=
  ∀ (p : Port) (b : Byte) (s : State) (kind : AddrKind) (d : Direction) (a : Addr) (c : Decision) (g : SegId) (x : Addr)
    (r : Reason), s.completes p b kind d a → s.forwards p kind d a c g x →
    (s.session.get p).owned ≠ some g → p ∉ (s.seg.get g).seekers → s.refusesRequest p g r →
    ∃ t, exec (.addressByte p b) s = .next t ∧ Discarding p t ∧ (t.part p).decision = some (.refused r) ∧
      (t.part p).recorded = true ∧ t.seg.get g = s.seg.get g ∧ t.segCounters = s.segCounters ∧ ReleasedBut g p s t ∧
      t.queue = queueAfter s.queue (s.addressRecord p r .refused kind d a (some c) (some g) none) ∧
      CreditTaken p c s t ∧ t.bank = s.bank ∧ KeepsManagement s t ∧ KeepsPort p.other s t

/-- Under LOG_ONLY an address that its entry is found to have violations in goes on as if it had none. PORT_DENIED goes
on without the direction step; DIRECTION, NO_POINTER, READ_WINDOW and NO_CREDIT may follow one another; each raises the
violation counter, the first alone makes the record, PASSED, and a bucket at 0 is left at 0. The part is then granted
an IDLE segment, drives its own kept one, waits for one OWNED by the other port or CLOSING or for the STOP of a release
(log entry 5), or is refused by the segment without a second record (R30, R59, R61 to R64, R93, R98, R119, R121,
R147). -/
def Obligations.LogOnlyAddressPasses : Prop :=
  ∀ (p : Port) (b : Byte) (s : State) (kind : AddrKind) (d : Direction) (a : Addr) (i : EntryIdx) (r : Reason)
    (o : Option Half) (rest : List (Reason × Option Half)), s.completes p b kind d a → s.logged p kind d a i →
    s.addressFaults p d i = (r, o) :: rest →
    let e := tableGet (s.bank.get (s.judgingId p)).entries i
    let g := e.segment
    let x := e.target.getD e.matchAddr
    let noted (t : State) : Prop :=
      (t.part p).recorded = true ∧ (t.part p).address = a ∧ (t.part p).kind = kind ∧ (t.part p).direction = d ∧
        t.queue = queueAfter s.queue (s.addressRecord p r .passed kind d a (some (.entry i)) (some g) o) ∧
        AddressCounted p i (rest.length + 1) s t ∧ t.bank = s.bank ∧ t.refill = s.refill ∧
        t.portCounters = s.portCounters ∧ KeepsManagement s t ∧ KeepsPort p.other s t
    let goes (t : State) : Prop := (t.part p).decision = some (.entry i) ∧ (t.part p).segment = some g ∧ Holding p s t
    ((s.session.get p).owned ≠ some g → (s.seg.get g).state = .idle →
      ∃ t, exec (.addressByte p b) s = .next t ∧ noted t ∧ goes t ∧ (t.session.get p).state = .connect ∧
        (t.session.get p).owned = some g ∧ (t.part p).target = x ∧
        t.seg.get g =
          { s.seg.get g with
            state := .owned, owner := some p, waiters := (s.seg.get g).waiters.erase p,
            speed := s.settings.speed.get g,
            act := some (.address false (targetBytes kind d x).1 (targetBytes kind d x).2), ninthOwed := false } ∧
        t.segCounters.get g = { s.segCounters.get g with grants := satInc (s.segCounters.get g).grants } ∧
        ReleasedBut g p s t) ∧
      ((s.session.get p).owned = some g →
        ∃ t, exec (.addressByte p b) s = .next t ∧ noted t ∧ goes t ∧ (t.session.get p).state = .connect ∧
          (t.session.get p).owned = some g ∧
          t.seg.get g =
            { s.seg.get g with
              act := some (.address true (targetBytes kind d x).1 (targetBytes kind d x).2), ninthOwed := false } ∧
          KeepsOtherSegs g s t ∧ t.segCounters = s.segCounters) ∧
      ((s.session.get p).owned ≠ some g →
        let waits (w : Option Byte) (g' : Segment) : Prop :=
          ∃ t, exec (.addressByte p b) s = .next t ∧ noted t ∧ goes t ∧ (t.session.get p).state = .grantWait ∧
            (t.session.get p).owned = none ∧ (t.session.get p).wait = w ∧ t.seg.get g = g' ∧
            t.segCounters = s.segCounters ∧ ReleasedBut g p s t
        (s.waitsFor p g → (s.limits p).wait ≠ 0 →
            waits (some (s.limits p).wait) { s.seg.get g with waiters := (s.seg.get g).waiters ++ [p] }) ∧
          ((s.seg.get g).state = .owned → (s.seg.get g).owner = none →
            waits (s.session.get p).wait { s.seg.get g with deferred := (s.seg.get g).deferred ++ [.request p] })) ∧
      ∀ y, (s.session.get p).owned ≠ some g → p ∉ (s.seg.get g).seekers → s.refusesRequest p g y →
        ∃ t, exec (.addressByte p b) s = .next t ∧ noted t ∧ Discarding p t ∧
          (t.part p).decision = some (.refused y) ∧ t.seg.get g = s.seg.get g ∧ t.segCounters = s.segCounters ∧
          ReleasedBut g p s t

/-- The first byte 11110xx0 of a 10-bit write address is acknowledged and held, nothing driven and no hold, when a valid
10-bit entry with these high bits grants the port any access or the default action is FORWARD; otherwise it is refused
NO_ENTRY with the low bits 0. The first byte 11110xx1 is refused so when the session remembers no 10-bit address with
these high bits; when it remembers one, that address is judged anew, and forwarded to the segment the session owns it
drives a repeated START with the one byte 11110yy1 (R31, R38, R41, R43, R57, R65; its other outcomes are those of
ForwardGrantedByIdleSegment to LogOnlyAddressPasses). -/
def Obligations.TenBitFirstByteAnswered : Prop :=
  ∀ (p : Port) (b : Byte) (s : State), s.phase = .inService → (s.session.get p).state = .address →
    (s.part p).held = none → isTenBitFirst b = true →
    let k := s.bank.get (s.judgingId p)
    let yes : Prop :=
      (∃ i, (tableGet k.entries i).valid = true ∧ (tableGet k.entries i).kind = .ten ∧
        addrHigh (tableGet k.entries i).matchAddr = highBits b ∧ (tableGet k.entries i).access.get p ≠ .none) ∨
      k.header.defaultAction = .forward
    (byteDirection b = .write → yes →
      ∃ t, exec (.addressByte p b) s = .next t ∧ (t.session.get p).state = .address ∧ t.part p = heldAddress b ∧
        (t.upi.get p).ninth = some .ack ∧ (t.upi.get p).hold = (s.upi.get p).hold ∧
        (t.session.get p).owned = (s.session.get p).owned ∧ KeepsSegs s t ∧ KeepsPolicy s t ∧ KeepsRecords s t ∧
        KeepsManagement s t ∧ KeepsPort p.other s t) ∧
      ((byteDirection b = .write ∧ ¬ yes ∧ (s.upi.get p).hold = false ∧ (s.session.get p).stretch = none) ∨
        (byteDirection b = .read ∧ ∀ r, (s.session.get p).remembered = some r → addrHigh r.address ≠ highBits b) →
        ∃ t, exec (.addressByte p b) s = .next t ∧ Discarding p t ∧ (t.part p).decision = some (.refused .noEntry) ∧
          Released p s t ∧ t.segCounters = s.segCounters ∧
          t.queue = queueAfter s.queue
            { sequence := 0, port := p, reason := .noEntry, outcome := .refused, direction := byteDirection b,
              kind := .ten, address := highBits b ++ 0#8, entry := none, segment := none, offset := none,
              position := 0, tag := k.header.tag } ∧
          KeepsPolicy s t ∧ KeepsManagement s t ∧ KeepsPort p.other s t) ∧
      ∀ r c g x, byteDirection b = .read → (s.session.get p).remembered = some r → addrHigh r.address = highBits b →
        (s.session.get p).owned = some g → s.forwards p .ten .read r.address c g x →
        ∃ t, exec (.addressByte p b) s = .next t ∧ (t.session.get p).state = .connect ∧ Holding p s t ∧
          (t.part p).decision = some c ∧ (t.part p).address = r.address ∧ (t.part p).direction = .read ∧
          t.seg.get g =
            { s.seg.get g with
              act := some (.address true (0b11110#5 ++ addrHigh x ++ 1#1 : BitVec (5 + 2 + 1)) []),
              ninthOwed := false } ∧
          KeepsOtherSegs g s t ∧ t.segCounters = s.segCounters ∧ CreditTaken p c s t ∧ KeepsRecords s t ∧
          KeepsManagement s t ∧ KeepsPort p.other s t

/-- The second byte of a 10-bit write address completes it and is judged: an address that an entry passes goes to the
entry's segment with both bytes of its target address to drive, one that no entry claims goes so, under a FORWARD
default, to the default segment, and is refused NO_ENTRY under DENY, the held byte not driven (R31, R38, R60, R61, R63;
its other outcomes are those of AddressRefusedByEntry to LogOnlyAddressPasses). -/
def Obligations.TenBitAddressJudged : Prop :=
  ∀ (p : Port) (first b : Byte) (s : State), s.phase = .inService → (s.session.get p).state = .address →
    s.part p = heldAddress first →
    let a : Addr := highBits first ++ b
    let k := s.bank.get (s.judgingId p)
    let driven (c : Decision) (g : SegId) (hi : BitVec 2) (lo : Byte) : Prop :=
      ∃ t, exec (.addressByte p b) s = .next t ∧ (t.session.get p).state = .connect ∧
        (t.session.get p).owned = some g ∧ Holding p s t ∧ (t.part p).held = none ∧ (t.part p).decision = some c ∧
        (t.seg.get g).act = some (.address false (0b11110#5 ++ hi ++ 0#1 : BitVec (5 + 2 + 1)) [lo]) ∧
        KeepsOtherSegs g s t ∧ CreditTaken p c s t ∧ t.bank = s.bank ∧ KeepsRecords s t ∧ KeepsManagement s t ∧
        KeepsPort p.other s t
    (∀ i, s.entryPasses p .ten .write a i → (s.session.get p).owned = none →
        let e := tableGet k.entries i
        (s.seg.get e.segment).state = .idle →
        driven (.entry i) e.segment (addrHigh (e.target.getD e.matchAddr)) (addrLow (e.target.getD e.matchAddr))) ∧
      ((∀ i, (tableGet k.entries i).claims .ten a = false) →
        (k.header.defaultAction = .forward → (s.session.get p).owned = none →
          (s.seg.get k.header.defaultSegment).state = .idle →
          driven .defaultForward k.header.defaultSegment (highBits first) b) ∧
        (k.header.defaultAction = .deny →
          ∃ t, exec (.addressByte p b) s = .next t ∧ Discarding p t ∧ Released p s t ∧
            t.queue = queueAfter s.queue (s.addressRecord p .noEntry .refused .ten .write a none none none) ∧
            KeepsPolicy s t ∧ KeepsManagement s t ∧ KeepsPort p.other s t))

/-! ## Data bytes of a write -/

/-- A write data byte of a part without an entry, or one after the sub-address that passes the checks of its entry, is
held, counted in both counts and handed to the Segment Controller; nothing else changes (R26, R32, R47, R71, R72). -/
def Obligations.WriteByteRelayed : Prop :=
  ∀ (p : Port) (b : Byte) (g : SegId) (s : State), s.writing p g →
    ((∀ i, (s.part p).decision ≠ some (.entry i)) ∨
      ∃ i, s.pastSubAddress p i ∧ s.writeWindowPasses p i ∧ s.writeLengthPasses p i) →
    exec (.dataByte p b) s =
      .next (s.driving p g (s.part p).sub (min 256 ((s.part p).length + 1)) b [])

/-- A write data byte after the sub-address breaks an EVERY_BYTE window or the length limit of its entry. Under REFUSE it
is not driven: NACK, DISCARD, the segment released. Under LOG_ONLY it is driven as if it had passed. The violation is
counted and the part's record, CUT or PASSED, carries the byte's number and its offset. Under LOG_ONLY a byte may break
both: both are counted, and the window makes the part's one record (R33, R81 to R84, R92, R93). -/
def Obligations.WriteByteViolation : Prop :=
  ∀ (p : Port) (b : Byte) (g : SegId) (s : State) (i : EntryIdx) (r : Reason) (o : Option Half), s.writing p g →
    s.pastSubAddress p i →
    let e := tableGet (s.judged p).entries i
    let out : Prop :=
      r = .writeWindow ∧ e.mode = .everyByte ∧
        ∃ l x, e.writeList = some l ∧ s.pointerFor p i = some x ∧ o = some x ∧ inList (s.judged p) l x = false
    let long : Prop :=
      r = .writeLength ∧ s.writeWindowPasses p i ∧ (∃ l, e.writeLimit = some l ∧ (s.part p).length = l.toNat) ∧
        o = if e.width = .w0 then none else s.pointerFor p i
    (e.action = .refuse → out ∨ long →
      ∃ t, exec (.dataByte p b) s = .next t ∧ Discarding p t ∧ Released p s t ∧ t.segCounters = s.segCounters ∧
        (t.part p).count = satInc (s.part p).count ∧ (t.part p).recorded = true ∧
        t.queue = s.queueWith p r .cut o ∧ ViolationCounted p i s t ∧ KeepsDevice p s t) ∧
      ∀ n,
        (e.action = .logOnly ∧ ((out ∧ s.writeLengthPasses p i) ∨ long) ∧ n = 1) ∨
          (e.action = .logOnly ∧ out ∧ (∃ l, e.writeLimit = some l ∧ (s.part p).length = l.toNat) ∧ n = 2) →
        ∃ t, exec (.dataByte p b) s = .next t ∧
          let u := s.driving p g (s.part p).sub (min 256 ((s.part p).length + 1)) b []
          t.upi = u.upi ∧ t.seg = u.seg ∧ t.segCounters = s.segCounters ∧
            t.session.get p =
              { u.session.get p with part := { u.part p with recorded := true } } ∧
            t.queue = s.queueWith p r .passed o ∧ ViolationsCounted n p i s t ∧ KeepsDevice p s t

/-- Sub-address bytes. The first of a width-2 entry is acknowledged and held with nothing driven; the last one is
driven, behind a held one, unless AT_START refuses the offset they form: then neither is driven and the part is refused
as a violating byte is. Under LOG_ONLY that offset is counted and recorded PASSED, and the bytes are driven (R37, R73,
R74, R80, R82, R92). -/
def Obligations.SubAddressBytes : Prop :=
  ∀ (p : Port) (b : Byte) (g : SegId) (s : State) (i : EntryIdx), s.writing p g →
    (s.part p).decision = some (.entry i) →
    let e := tableGet (s.judged p).entries i
    let part := s.part p
    (e.width = .w2 → part.sub = [] → part.count = 0 → part.held = none →
      exec (.dataByte p b) s = .next
        { s with
          session := s.session.set p
            { s.session.get p with part := { part with count := 1, sub := [b], held := some b } },
          upi := s.upi.set p { s.upi.get p with ninth := some .ack } }) ∧
      ∀ (x : Half) (first : Byte) (rest : List Byte),
        (e.width = .w1 ∧ part.sub = [] ∧ part.count = 0 ∧ part.held = none ∧ x = 0#8 ++ b ∧ first = b ∧ rest = []) ∨
          (e.width = .w2 ∧ part.sub = [first] ∧ part.count = 1 ∧ part.held = some first ∧ x = first ++ b ∧ rest = [b]) →
        ((∀ l, e.mode = .atStart → e.writeList = some l → inList (s.judged p) l x = true) →
          exec (.dataByte p b) s = .next (s.driving p g (part.sub ++ [b]) part.length first rest)) ∧
          ∀ l, e.mode = .atStart → e.writeList = some l → inList (s.judged p) l x = false →
            (e.action = .refuse →
              ∃ t, exec (.dataByte p b) s = .next t ∧ Discarding p t ∧ Released p s t ∧
                t.segCounters = s.segCounters ∧ t.queue = s.queueWith p .writeWindow .cut (some x) ∧
                ViolationCounted p i s t ∧ KeepsDevice p s t) ∧
              (e.action = .logOnly →
                ∃ t, exec (.dataByte p b) s = .next t ∧
                  let u := s.driving p g (part.sub ++ [b]) part.length first rest
                  t.upi = u.upi ∧ t.seg = u.seg ∧ t.segCounters = s.segCounters ∧
                    t.session.get p = { u.session.get p with part := { u.part p with recorded := true } } ∧
                    t.queue = s.queueWith p .writeWindow .passed (some x) ∧ ViolationCounted p i s t ∧
                    KeepsDevice p s t)

/-- A byte that completes in DISCARD is not acknowledged and not driven, only counted (R26, R44, R71). A byte of a
management write is counted in both counts too, and goes to the port's parser, which answers its ninth bit: the command
byte, unless a command of the port is in progress, a length of at most 32, that many arguments, one CRC byte; the
running CRC covers all but the last (R26, R46, R71, R160, R162). -/
def Obligations.DiscardAndManagementBytes : Prop :=
  ∀ (p : Port) (b : Byte) (s : State), s.phase = .inService → (s.part p).direction = .write →
    (s.upi.get p).hold = false →
    let counted : PerPort Session :=
      s.session.set p
        { s.session.get p with
          part :=
            { s.part p with
              count := satInc (s.part p).count,
              length :=
                if (s.part p).count.toNat < (s.width p).bytes then (s.part p).length
                else min 256 ((s.part p).length + 1) } }
    ((s.session.get p).state = .discard →
      exec (.dataByte p b) s = .next
        { s with session := counted, upi := s.upi.set p { s.upi.get p with ninth := some .nack } }) ∧
      ((s.session.get p).state = .mgmt →
        let r := s.parser.get p
        let goes (a : Ack) (r : Parser) : Prop :=
          exec (.dataByte p b) s = .next
            { s with
              session := counted, upi := s.upi.set p { s.upi.get p with ninth := some a },
              parser := s.parser.set p r }
        let folded := crc8 r.running [b]
        (r.state = .awaitCommand → (s.job.get p).isSome → goes .nack { r with state := .refused }) ∧
          (r.state = .awaitCommand → s.job.get p = none →
            goes .ack { r with state := .awaitLength, command := b, running := folded }) ∧
          (r.state = .awaitLength → b = 0 → goes .ack { r with state := .awaitCrc, length := 0, running := folded }) ∧
          (r.state = .awaitLength → 1 ≤ b.toNat → b.toNat ≤ 32 →
            goes .ack { r with state := .awaitArguments, length := b, running := folded }) ∧
          (r.state = .awaitLength → 33 ≤ b.toNat → goes .nack { r with state := .overlength }) ∧
          (r.state = .awaitArguments → r.args.length + 1 < r.length.toNat →
            goes .ack { r with args := r.args ++ [b], running := folded }) ∧
          (r.state = .awaitArguments → r.args.length + 1 = r.length.toNat →
            goes .ack { r with state := .awaitCrc, args := r.args ++ [b], running := folded }) ∧
          (r.state = .awaitCrc → goes .ack { r with state := .complete, received := b }) ∧
          (r.state = .complete ∨ r.state = .overlength ∨ r.state = .refused → goes .nack r))

/-! ## What the target answers -/

/-- The target's ninth bit of an address byte. NACK is relayed: DISCARD, the segment released, no record. ACK with an
address byte to come has that byte driven. ACK of the last one is relayed: a write enters WRITE, its 10-bit address
remembered; a read enters READ and byte 0 is fetched inside a hold, to be dropped if it breaks an EVERY_BYTE window of
a REFUSE entry; one of a LOG_ONLY entry is counted and recorded PASSED, and byte 0 is relayed. A hit is counted for an
entry (R31, R34, R36, R40, R68, R86, R92). -/
def Obligations.TargetAnswersAddress : Prop :=
  ∀ (p : Port) (g : SegId) (restart : Bool) (byte : Byte) (rest : List Byte) (s : State), s.phase = .inService →
    (s.session.get p).state = .connect → (s.seg.get g).owner = some p → (s.session.get p).owned = some g →
    (s.seg.get g).act = some (.address restart byte rest) → (s.upi.get p).hold = true →
    let d := (s.part p).decision
    let HitCounted (t : State) : Prop :=
      ∀ k i, tableGet (t.accounts.get k) i =
        if k = s.judgedId p ∧ d = some (.entry i) then
          { tableGet (s.accounts.get k) i with hits := satInc (tableGet (s.accounts.get k) i).hits }
        else tableGet (s.accounts.get k) i
    (∃ t, exec (.targetAddressAnswer g .nack) s = .next t ∧ Discarding p t ∧ Released p s t ∧
        t.segCounters = s.segCounters ∧ KeepsRecords s t ∧ t.accounts = s.accounts ∧ KeepsDevice p s t) ∧
      (∀ b more, rest = b :: more →
        exec (.targetAddressAnswer g .ack) s = .next
          { s with seg := s.seg.set g { s.seg.get g with act := some (.address restart b more) } }) ∧
      (rest = [] → (s.part p).direction = .write →
        ∃ t, exec (.targetAddressAnswer g .ack) s = .next t ∧ (t.session.get p).state = .write ∧ Freed p s t ∧
          (t.upi.get p).ninth = some .ack ∧ (t.session.get p).owned = some g ∧ t.part p = s.part p ∧
          (t.session.get p).pointer = (s.session.get p).pointer ∧
          (t.session.get p).remembered =
            (if (s.part p).kind = .ten then some ⟨(s.part p).address, g⟩ else (s.session.get p).remembered) ∧
          t.seg.get g = { s.seg.get g with act := none } ∧ KeepsOtherSegs g s t ∧ t.segCounters = s.segCounters ∧
          HitCounted t ∧ KeepsRecords s t ∧ KeepsDevice p s t) ∧
      (rest = [] → (s.part p).direction = .read →
        (∀ i, d = some (.entry i) → s.readWindowPasses p i ∧ s.readLengthPasses p i) →
        ∃ t, exec (.targetAddressAnswer g .ack) s = .next t ∧ (t.session.get p).state = .read ∧ Holding p s t ∧
          (t.upi.get p).ninth = some .ack ∧ (t.session.get p).owned = some g ∧ t.part p = s.part p ∧
          (t.seg.get g).act = some (.receive false) ∧ (t.seg.get g).state = (s.seg.get g).state ∧
          KeepsOtherSegs g s t ∧ t.segCounters = s.segCounters ∧ HitCounted t ∧ KeepsRecords s t ∧ KeepsDevice p s t) ∧
      ∀ i x l o cut, rest = [] → (s.part p).direction = .read → d = some (.entry i) →
        let e := tableGet (s.judged p).entries i
        (e.action = .refuse ∧ o = .cut ∧ cut = true) ∨
          (e.action = .logOnly ∧ s.readLengthPasses p i ∧ o = .passed ∧ cut = false) →
        e.mode = .everyByte → e.readList = some l → s.pointerFor p i = some x → inList (s.judged p) l x = false →
        ∃ t, exec (.targetAddressAnswer g .ack) s = .next t ∧ (t.session.get p).state = .read ∧ Holding p s t ∧
          (t.seg.get g).act = some (.receive cut) ∧ (t.session.get p).owned = some g ∧ (t.part p).recorded = true ∧
          t.queue = s.queueWith p .readWindow o (some x) ∧
          (∀ k j, tableGet (t.accounts.get k) j =
            if k = s.judgedId p ∧ j = i then
              { tableGet (s.accounts.get k) j with
                hits := satInc (tableGet (s.accounts.get k) j).hits,
                violations := satInc (tableGet (s.accounts.get k) j).violations }
            else tableGet (s.accounts.get k) j) ∧
          KeepsOtherSegs g s t ∧ t.segCounters = s.segCounters ∧ KeepsDevice p s t

/-- The target's ninth bit of a write data byte. NACK is relayed: DISCARD, the segment released, no record. ACK with a
byte to come has that byte driven. ACK of the last one is relayed; it sets the pointer when it completes the
sub-address and advances it, wrapping by the width, after a data byte of the pointer's entry (R32, R33, R37, R75 to
R78). -/
def Obligations.TargetAnswersWriteByte : Prop :=
  ∀ (p : Port) (g : SegId) (byte : Byte) (rest : List Byte) (s : State), s.phase = .inService →
    (s.seg.get g).owner = some p → (s.session.get p).owned = some g →
    (s.seg.get g).act = some (.send byte rest) → (s.upi.get p).hold = true →
    let answered (q : Option Pointer) : State :=
      { s with
        session := s.session.set p
          { s.session.get p with stretch := none, abandon := some (s.limits p).abandon, pointer := q },
        upi := s.upi.set p { s.upi.get p with hold := false, ninth := some .ack },
        seg := s.seg.set g { s.seg.get g with act := none } }
    (∃ t, exec (.targetWriteAnswer g .nack) s = .next t ∧ Discarding p t ∧ Released p s t ∧
        t.segCounters = s.segCounters ∧ (t.session.get p).pointer = none ∧ (t.session.get p).remembered = none ∧
        KeepsRecords s t ∧ t.accounts = s.accounts ∧ KeepsDevice p s t) ∧
      (∀ b more, rest = b :: more →
        exec (.targetWriteAnswer g .ack) s = .next
          { s with seg := s.seg.set g { s.seg.get g with act := some (.send b more) } }) ∧
      (rest = [] → (∀ i, (s.part p).decision ≠ some (.entry i)) →
        exec (.targetWriteAnswer g .ack) s = .next (answered (s.session.get p).pointer)) ∧
      ∀ i, rest = [] → (s.part p).decision = some (.entry i) →
        let w := (tableGet (s.judged p).entries i).width
        (∀ x : Half, (s.part p).length = 0 →
            (∃ b, w = .w1 ∧ (s.part p).sub = [b] ∧ x = 0#8 ++ b) ∨
              (∃ b c, w = .w2 ∧ (s.part p).sub = [b, c] ∧ x = b ++ c) →
            exec (.targetWriteAnswer g .ack) s = .next (answered (some ⟨i, x⟩))) ∧
          ((s.part p).length ≠ 0 ∨ w = .w0 →
            (∀ x, s.pointerFor p i = some x →
                exec (.targetWriteAnswer g .ack) s = .next
                  (answered (some ⟨i, if w = .w1 then (x + 1) &&& 0x00FF else x + 1⟩))) ∧
              (s.pointerFor p i = none →
                exec (.targetWriteAnswer g .ack) s = .next (answered (s.session.get p).pointer)))

/-! ## Read bytes -/

/-- The upstream ACK of a read byte asks for the next one inside a hold. A byte that passes has the ninth bit of the
byte before clocked as ACK and is fetched. A byte that breaks an EVERY_BYTE window or the length limit of a REFUSE
entry cuts the part: that ninth bit is NACK, the filler byte is presented, FILL. The record carries the byte's number.
Under LOG_ONLY the byte is fetched as one that passes; it may break both, both are counted, and the window makes the
part's one record (R34, R36, R86 to R93). -/
def Obligations.ReadByteRequested : Prop :=
  ∀ (p : Port) (g : SegId) (s : State), s.phase = .inService → (s.session.get p).state = .read →
    (s.part p).direction = .read → (s.upi.get p).hold = false → (s.upi.get p).phase = .send →
    (s.session.get p).owned = some g →
    ((∀ i, (s.part p).decision = some (.entry i) → s.readWindowPasses p i ∧ s.readLengthPasses p i) →
      exec (.upstreamReadAck p) s = .next
        { s with
          session := s.session.set p
            { s.session.get p with stretch := some (s.limits p).stretch, abandon := none },
          upi := s.upi.set p { s.upi.get p with hold := true },
          seg := s.seg.set g { ninthClocked .ack (s.seg.get g) with act := some (.receive false) } }) ∧
      ∀ (i : EntryIdx) (r : Reason) (o : Option Half),
        let e := tableGet (s.judged p).entries i
        (s.part p).decision = some (.entry i) → o = s.pointerFor p i →
        let out : Prop :=
          r = .readWindow ∧ e.mode = .everyByte ∧
            ∃ l x, e.readList = some l ∧ o = some x ∧ inList (s.judged p) l x = false
        let atLimit : Prop := ∃ l, e.readLimit = some l ∧ (s.part p).length = l.toNat
        let long : Prop := r = .readLength ∧ s.readWindowPasses p i ∧ atLimit
        (e.action = .refuse → (s.seg.get g).ninthOwed = true → out ∨ long →
          ∃ t, exec (.upstreamReadAck p) s = .next t ∧ CutShort p g s t ∧ KeepsOtherSegs g s t ∧
            t.segCounters = s.segCounters ∧ t.queue = s.queueWith p r .cut o ∧ ViolationCounted p i s t ∧
            KeepsDevice p s t) ∧
          ∀ n,
            (e.action = .logOnly ∧ ((out ∧ s.readLengthPasses p i) ∨ long) ∧ n = 1) ∨
              (e.action = .logOnly ∧ out ∧ atLimit ∧ n = 2) →
            ∃ t, exec (.upstreamReadAck p) s = .next t ∧
              t.session.get p =
                { s.session.get p with
                  stretch := some (s.limits p).stretch, abandon := none,
                  part := { s.part p with recorded := true } } ∧
              t.upi = s.upi.set p { s.upi.get p with hold := true } ∧
              t.seg = s.seg.set g { ninthClocked .ack (s.seg.get g) with act := some (.receive false) } ∧
              t.segCounters = s.segCounters ∧ t.queue = s.queueWith p r .passed o ∧ ViolationsCounted n p i s t ∧
              KeepsDevice p s t

/-- The end of a read, and reads outside READ. The upstream NACK is clocked downstream and leaves the part in READ, its
segment owned, its clock free; each byte clocked after it is only counted (R35). In FILL and DISCARD each byte asked
for is the filler byte in force (R44, R45), the first one of DISCARD ready since its entry (Discarding); in MGMT it is
the next byte of the copy of the slot, then 0xFF (R46, R165). A NACK ends the sending. That DISCARD counts a byte at
its ninth bit, the NACK's included, is log entry 14. -/
def Obligations.ReadsEndAndFill : Prop :=
  ∀ (p : Port) (s : State), s.phase = .inService → (s.part p).direction = .read → (s.upi.get p).hold = false →
    let ended := s.upi.set p { s.upi.get p with phase := .ended, shift := none }
    let counted : PerPort Session :=
      s.session.set p { s.session.get p with part := { s.part p with count := satInc (s.part p).count } }
    let shown (b : Byte) (l : List Byte) : State :=
      { s with
        session := counted, upi := s.upi.set p { s.upi.get p with shift := some b }, readback := s.readback.set p l }
    ((s.upi.get p).phase = .ended → (s.session.get p).state ∈ [SessionState.read, .fill, .discard, .mgmt] →
        ∀ c, c = .upstreamReadAck p ∨ c = .upstreamReadNack p → exec c s = .next { s with session := counted }) ∧
      ((s.upi.get p).phase = .send →
        (∀ g, (s.session.get p).state = .read → (s.session.get p).owned = some g →
            exec (.upstreamReadNack p) s = .next
              { s with upi := ended, seg := s.seg.set g (ninthClocked .nack (s.seg.get g)) }) ∧
          ((s.session.get p).state = .fill ∨ (s.session.get p).state = .discard →
            exec (.upstreamReadAck p) s = .next (shown s.settings.filler (s.readback.get p))) ∧
          ((s.session.get p).state = .fill ∨ (s.session.get p).state = .mgmt →
            exec (.upstreamReadNack p) s = .next { s with upi := ended }) ∧
          ((s.session.get p).state = .discard →
            exec (.upstreamReadNack p) s = .next { shown 0 (s.readback.get p) with upi := ended }) ∧
          ((s.session.get p).state = .mgmt → s.readback.get p = [] →
            exec (.upstreamReadAck p) s = .next (shown 0xFF [])) ∧
          ∀ b l, (s.session.get p).state = .mgmt → s.readback.get p = b :: l →
            exec (.upstreamReadAck p) s = .next (shown b l))

/-- A byte clocked in from the target is presented upstream and counted, its ninth bit owed, the pointer of its entry
advances, and the hold ends. Byte 0 of a part cut there is not presented: its ninth bit is NACK, FILL presents the
filler byte, and the pointer, which that byte advanced too, is cleared with the ownership the cut ends (R34, R36, R45,
R71, R77, R78; log entry 24). -/
def Obligations.ReadByteArrives : Prop :=
  ∀ (p : Port) (g : SegId) (b : Byte) (cut : Bool) (s : State), s.phase = .inService →
    (s.seg.get g).owner = some p → (s.session.get p).owned = some g → (s.seg.get g).act = some (.receive cut) →
    (s.upi.get p).hold = true →
    (cut = false →
      ∀ q,
        ((∃ i x, (s.part p).decision = some (.entry i) ∧ s.pointerFor p i = some x ∧
            q = some ⟨i, if (tableGet (s.judged p).entries i).width = .w1 then (x + 1) &&& 0x00FF else x + 1⟩) ∨
          ((∀ i, (s.part p).decision = some (.entry i) → s.pointerFor p i = none) ∧ q = (s.session.get p).pointer)) →
        exec (.readByteReceived g b) s = .next
          { s with
            session := s.session.set p
              { s.session.get p with
                stretch := none, abandon := some (s.limits p).abandon, pointer := q,
                part :=
                  { s.part p with
                    count := satInc (s.part p).count, length := min 256 ((s.part p).length + 1) } },
            upi := s.upi.set p { s.upi.get p with hold := false, phase := .send, shift := some b },
            seg := s.seg.set g { s.seg.get g with act := none, ninthOwed := true } }) ∧
      (cut = true →
        ∃ t, exec (.readByteReceived g b) s = .next t ∧ CutShort p g s t ∧ KeepsOtherSegs g s t ∧
          t.segCounters = s.segCounters ∧ KeepsRecords s t ∧ t.accounts = s.accounts ∧ KeepsDevice p s t)

/-! ## Timers -/

/-- The stretch timer, or in GRANT_WAIT the wait timer, expires on a held part. In GRANT_WAIT the port leaves the
waiter list, or withdraws its request that waits for the STOP of a release (log entry 5), and the part is refused
GRANT_TIMEOUT; in CONNECT it is refused TARGET_TIMEOUT; in WRITE the byte is not acknowledged, CUT; in READ the filler
byte is presented, CUT, FILL. An owned segment is given up. A timer that does not run does not expire (R30, R47, R99,
R101; the byte position of a held read: log entry 20). -/
def Obligations.HeldPartTimesOut : Prop :=
  ∀ (p : Port) (s : State), s.phase = .inService → (s.upi.get p).hold = true →
    let e := s.session.get p
    (∀ c g, (c = .waitTimerExpiry p ∧ e.wait.isSome) ∨ (c = .stretchTimerExpiry p ∧ e.stretch.isSome) →
        e.state = .grantWait → (s.part p).segment = some g → e.owned = none →
        ∃ t, exec c s = .next t ∧ Discarding p t ∧ (t.part p).decision = some (.refused .grantTimeout) ∧
          t.seg.get g =
            { s.seg.get g with
              waiters := (s.seg.get g).waiters.erase p, deferred := (s.seg.get g).deferred.erase (.request p) } ∧
          KeepsOtherSegs g s t ∧
          t.segCounters = s.segCounters ∧ t.queue = s.queueWith p .grantTimeout .refused none ∧
          t.accounts = s.accounts ∧ KeepsDevice p s t) ∧
      (e.stretch.isSome → e.state = .connect ∨ e.state = .write →
        ∃ t, exec (.stretchTimerExpiry p) s = .next t ∧ Discarding p t ∧ GivenUp p s t ∧
          (t.part p).decision = (if e.state = .connect then some (.refused .targetTimeout) else (s.part p).decision) ∧
          (t.session.get p).pointer = (if e.owned = none then e.pointer else none) ∧ t.segCounters = s.segCounters ∧
          t.queue = s.queueWith p .targetTimeout (if e.state = .connect then .refused else .cut) none ∧
          t.accounts = s.accounts ∧ KeepsDevice p s t) ∧
      (e.stretch.isSome → e.state = .read →
        ∃ t, exec (.stretchTimerExpiry p) s = .next t ∧ (t.session.get p).state = .fill ∧
          (t.session.get p).owned = none ∧ Freed p s t ∧ (t.upi.get p).shift = some s.settings.filler ∧
          (t.part p).count = satInc (s.part p).count ∧ GivenUp p s t ∧ t.segCounters = s.segCounters ∧
          t.queue = s.queueWith p .targetTimeout .cut none ∧ t.accounts = s.accounts ∧ KeepsDevice p s t) ∧
      (e.stretch = none → exec (.stretchTimerExpiry p) s = .next s) ∧
      (e.wait = none ∨ e.state ≠ .grantWait → exec (.waitTimerExpiry p) s = .next s)

/-- The abandon timer of a session whose clock is free expires: IDLE, what the session held cleared, its segment given
up, its bank released, the port's abandoned counter raised. A judged part outside MGMT, DISCARD and FILL records
ABANDONED. That the whole part is cleared at the session's end, before the next address byte clears it, is log entry
16, and the kind, address, segment and target of a part with nothing judged are log entry 22: both are the model's. A
write part in MGMT also ends its frame, which FrameEndActs states (R28, R48, R123, R141). -/
def Obligations.AbandonTimerEndsSession : Prop :=
  ∀ (p : Port) (s : State), s.phase = .inService →
    (s.free p = false ∨ (s.session.get p).abandon = none → exec (.abandonTimerExpiry p) s = .next s) ∧
      (s.free p = true → (s.session.get p).abandon.isSome →
        ¬((s.session.get p).state = .mgmt ∧ (s.part p).direction = .write) →
        ∃ t, exec (.abandonTimerExpiry p) s = .next t ∧ t.session.get p = State.reset.session.get p ∧
          t.upi.get p = { phase := .quiet, hold := false, shift := none, ninth := none } ∧ GivenUp p s t ∧
          t.segCounters = s.segCounters ∧
          t.portCounters = s.portCounters.set p
            { s.portCounters.get p with abandoned := satInc (s.portCounters.get p).abandoned } ∧
          t.queue =
            (if (s.session.get p).state ∈ [SessionState.address, .write, .read] ∧ (s.part p).decision.isSome = true then
              s.queueWith p .abandoned .cut none
            else s.queue) ∧
          (∀ k, t.bc.holders.get k =
            if (s.session.get p).bank = some k then s.bc.holders.get k - 1 else s.bc.holders.get k) ∧
          t.bc.shadow =
            (if s.bc.shadow = .draining ∧ (s.session.get p).bank = some s.shadowId ∧ s.bc.holders.get s.shadowId - 1 = 0
             then .reloading else s.bc.shadow) ∧
          t.bc = { s.bc with holders := t.bc.holders, shadow := t.bc.shadow } ∧ t.bank = s.bank ∧
          t.accounts = s.accounts ∧ t.refill = s.refill ∧ KeepsPort p.other s t ∧ t.slot = s.slot ∧ t.job = s.job ∧
          t.parser = s.parser ∧ t.holder = s.holder ∧ t.idle = s.idle ∧ t.settings = s.settings)

/-- The refill tick adds its refill to each bucket of the active bank, up to its limit, and starts again with the active
header's tick. The idle timeout ends the management session; an EDITABLE, dirty shadow is then reloaded. Nothing else
changes, and nothing at all when the timer does not run (R118, R134, R167). -/
def Obligations.RefillAndIdleTimers : Prop :=
  ∀ s : State, s.phase = .inService →
    (s.refill = none → exec .refillTick s = .next s) ∧
      (s.refill.isSome →
        ∃ t, exec .refillTick s = .next t ∧
          t = { s with accounts := t.accounts, refill := some (s.bank.get s.bc.active).header.refillTick } ∧
          t.accounts.get s.shadowId = s.accounts.get s.shadowId ∧
          ∀ i,
            let e := tableGet (s.bank.get s.bc.active).entries i
            let a := tableGet (s.accounts.get s.bc.active) i
            (∀ n l, a.bucket = some n → e.creditLimit = some l →
                tableGet (t.accounts.get s.bc.active) i =
                  { a with bucket := some (min l.toNat (n + e.creditRefill.toNat)) }) ∧
              (a.bucket = none ∨ e.creditLimit = none → tableGet (t.accounts.get s.bc.active) i = a)) ∧
      (s.idle = none → exec .idleTimerExpiry s = .next s) ∧
      (s.idle.isSome →
        exec .idleTimerExpiry s = .next
          { s with
            holder := none, idle := none,
            bc :=
              { s.bc with
                shadow := if s.bc.shadow = .editable ∧ s.bc.dirty = true then .reloading else s.bc.shadow } })

/-! ## Segments -/

/-- What each step of the close procedure hears, short of its end: SCL seen high, a recovery pulse, a third step whose
STOP finds SDA low with pulses left. The hold timer starts afresh with the latched limit at each (R102 to R104; that it
runs through all of CLOSING, SCL high or low: log entry 8). On a segment that is not CLOSING at that step nothing
happens. -/
def Obligations.CloseProcedureSteps : Prop :=
  ∀ (g : SegId) (s : State), s.phase = .inService →
    let c := s.seg.get g
    let goes (c' : Segment) : State := { s with seg := s.seg.set g { c' with hold := some c.holdLimit } }
    (c.state = .closing → c.step = .one →
        exec (.closeSclReleased g .high) s = .next (goes { c with step := .three }) ∧
          exec (.closeSclReleased g .low) s = .next (goes { c with step := .two })) ∧
      (c.state = .closing → c.step = .two →
        exec (.recoveryPulse g .high) s = .next (goes { c with pulses := c.pulses + 1, step := .three }) ∧
          (c.pulses + 1 < 9 →
            exec (.recoveryPulse g .low) s = .next (goes { c with pulses := c.pulses + 1, step := .two }))) ∧
      (c.state = .closing → c.step = .three → c.pulses < 9 →
        exec (.closeStopEnd g .sdaLow) s = .next (goes { c with step := .two })) ∧
      ∀ (l : Level) (r : CloseStopResult),
        (c.state ≠ .closing ∨ c.step ≠ .one → exec (.closeSclReleased g l) s = .next s) ∧
          (c.state ≠ .closing ∨ c.step ≠ .two → exec (.recoveryPulse g l) s = .next s) ∧
          (c.state ≠ .closing ∨ c.step ≠ .three → exec (.closeStopEnd g r) s = .next s)

/-- A segment is quarantined: CLOCK_HELD at the hold timer, DATA_HELD at nine pulses with SDA low, FOREIGN at a
condition on an IDLE or CLOSING segment that the device did not form. The quarantines counter rises, SEGMENT_EVENT is
latched for both ports, its waiters are refused SEGMENT_UNAVAILABLE in list order, a pending disable takes it on to
DISABLED, and the commands that wait on it complete or go on waiting for their other segments (R99, R102 to R104, R106,
R108 to R112, R154, R168; the kinds of condition: log entry 9). -/
def Obligations.SegmentQuarantined : Prop :=
  ∀ (g : SegId) (c : Instr) (r : QuarantineReason) (s : State), s.phase = .inService →
    let o := s.seg.get g
    ((c = .holdTimerExpiry g ∧ o.state = .closing ∧ o.hold.isSome ∧ r = .clockHeld) ∨
      (c = .recoveryPulse g .low ∧ o.state = .closing ∧ o.step = .two ∧ 9 ≤ o.pulses + 1 ∧ r = .dataHeld) ∨
      (c = .closeStopEnd g .sdaLow ∧ o.state = .closing ∧ o.step = .three ∧ 9 ≤ o.pulses ∧ r = .dataHeld) ∨
      (r = .foreign ∧ o.state = .idle ∧ (c = .foreignCondition g .start ∨ c = .foreignCondition g .clockFall)) ∨
      (r = .foreign ∧ o.state = .closing ∧
        (c = .foreignCondition g .start ∨ c = .foreignCondition g .stop ∨
          (c = .foreignCondition g .stopInPulse ∧ o.step ≠ .two)))) →
    s.waitersHeld o.waiters →
    let x : SegState := if o.disablePending then .disabled else .quarantined
    let why : QuarantineReason := if o.disablePending then .none else r
    ∃ t, exec c s = .next t ∧
      (t.seg.get g).state = x ∧ (t.seg.get g).owner = none ∧ (t.seg.get g).reason = why ∧
      (t.seg.get g).disablePending = false ∧ (t.seg.get g).waiters = [] ∧ (t.seg.get g).hold = none ∧
      (t.seg.get g).act = none ∧
      t.segCounters.get g =
        { s.segCounters.get g with quarantines := satInc (s.segCounters.get g).quarantines } ∧
      KeepsOtherSegs g s t ∧ (∀ p, (t.flags.get p).segmentEvent = true ∧ t.alert.get p = t.alertLevel p) ∧
      (o.waiters = [] → ∀ p, t.flags.get p = { s.flags.get p with segmentEvent := true }) ∧
      Refused o.waiters s t ∧ t.queue = s.refusedIn o.waiters s.queue ∧ JobsReported g x why s t ∧
      t.bank = s.bank ∧ t.bc = s.bc ∧ t.accounts = s.accounts ∧ t.refill = s.refill ∧
      t.portCounters = s.portCounters ∧ t.settings = s.settings ∧ t.parser = s.parser ∧ t.holder = s.holder ∧
      t.idle = s.idle

/-- A STOP forms, at the end of the close procedure or of a release: with a disable pending the segment enters DISABLED
and its waiters are refused SEGMENT_UNAVAILABLE in list order; otherwise it is granted to the head of its waiters, or
enters IDLE; a close that gave pulses counts a recovery; the commands that wait on the segment complete or go on
waiting for their other segments. A release whose STOP fails starts the close procedure. What came while the STOP of a
release was being driven is taken after it, in its order. A disable (log entry 6): on IDLE the segment enters DISABLED;
on the waiter granted in that event the part is aborted and the segment given up; on CLOSING it is pending. A request
(log entry 5): on IDLE it is granted at once, whatever the wait limit; behind a waiter granted in that event, or on
CLOSING, it is appended and its wait timer starts, or with a wait limit of 0 it is refused GRANT_TIMEOUT (R30, R49, R98
to R100, R102, R104, R109, R112, R168; what a waiting command reports before a grant of the same event: log entry
18). -/
def Obligations.SegmentSettles : Prop :=
  ∀ (g : SegId) (c : Instr) (s : State), s.phase = .inService →
    let o := s.seg.get g
    let closes : Prop := c = .closeStopEnd g .formed ∧ o.state = .closing ∧ o.step = .three
    let releases (r : StopResult) : Prop := c = .releaseStopResult g r ∧ o.act = some .releaseStop ∧ o.owner = none
    let counted : SegCounters :=
      if c = .closeStopEnd g .formed ∧ o.pulses ≠ 0 then
        { s.segCounters.get g with recoveries := satInc (s.segCounters.get g).recoveries }
      else s.segCounters.get g
    let out : Segment :=
      { o with
        state := .disabled, owner := none, waiters := [], reason := .none, disablePending := false, hold := none,
        act := none, ninthOwed := false }
    let kept (t : State) : Prop :=
      KeepsOtherSegs g s t ∧ KeepsPolicy s t ∧ t.bc = s.bc ∧ t.settings = s.settings ∧ t.parser = s.parser ∧
        t.holder = s.holder ∧ t.idle = s.idle
    let granted (p : Port) (rest : List Port) (t : State) : Prop :=
      t.seg.get g =
          { o with
            state := .owned, owner := some p, waiters := rest, deferred := [], speed := s.settings.speed.get g,
            hold := none, ninthOwed := false,
            act := some (.address false (targetBytes (s.part p).kind (s.part p).direction (s.part p).target).1
              (targetBytes (s.part p).kind (s.part p).direction (s.part p).target).2) } ∧
        t.segCounters.get g = { counted with grants := satInc counted.grants } ∧
        t.session.get p = { s.session.get p with state := .connect, owned := some g, wait := none } ∧
        t.upi.get p = s.upi.get p ∧ JobsReported g .idle .none s t ∧ kept t
    let joined (p : Port) (l : List Port) : List Port := if (s.limits p).wait = 0 then l else l ++ [p]
    let joins (p : Port) (t : State) : Prop :=
      ((s.limits p).wait ≠ 0 →
          t.session.get p = { s.session.get p with state := .grantWait, wait := some (s.limits p).wait } ∧
            t.upi.get p = s.upi.get p ∧ KeepsRecords s t) ∧
        ((s.limits p).wait = 0 →
          Discarding p t ∧ (t.part p).decision = some (.refused .grantTimeout) ∧
            t.queue = s.recordedIn p .grantTimeout .refused s.queue)
    (closes ∨ releases .formed → o.deferred = [] → o.disablePending = true → s.waitersHeld o.waiters →
        ∃ t, exec c s = .next t ∧ t.seg.get g = out ∧ t.segCounters.get g = counted ∧
          JobsReported g .disabled .none s t ∧ Refused o.waiters s t ∧ t.queue = s.refusedIn o.waiters s.queue ∧
          (o.waiters = [] → KeepsRecords s t) ∧ kept t) ∧
      (closes ∨ releases .formed → o.deferred = [] → o.disablePending = false →
        (o.waiters = [] →
          ∃ t, exec c s = .next t ∧
            t.seg.get g = { o with state := .idle, owner := none, hold := none, act := none, ninthOwed := false } ∧
            t.segCounters.get g = counted ∧ JobsReported g .idle .none s t ∧ kept t ∧ KeepsRecords s t ∧
            t.session = s.session ∧ t.upi = s.upi) ∧
        ∀ p rest, o.waiters = p :: rest →
          ∃ t, exec c s = .next t ∧ granted p rest t ∧ KeepsRecords s t ∧ KeepsPort p.other s t) ∧
      (releases .formed → o.deferred = [.disable] → o.disablePending = false →
        (o.waiters = [] →
          ∃ t, exec c s = .next t ∧ t.seg.get g = { out with deferred := [] } ∧ t.segCounters.get g = counted ∧
            (∀ p, s.job.get p = some (.segmentDisable g) → t.slot.get p = ⟨.ok, []⟩ ∧ t.job.get p = none) ∧
            (∀ p, s.job.get p ≠ some (.segmentDisable g) → (∀ n l, s.job.get p = some (.abortAll n l) → g ∉ l) →
              (t.slot.get p, t.job.get p) = s.jobAfter g .idle .none p) ∧
            kept t ∧ KeepsRecords s t ∧ t.session = s.session ∧ t.upi = s.upi) ∧
        ∀ p rest, o.waiters = p :: rest → (s.upi.get p).hold = true →
          ∃ t, exec c s = .next t ∧
            t.seg.get g = { closing s.settings g o with waiters := rest, deferred := [], disablePending := true } ∧
            t.segCounters.get g = { counted with grants := satInc counted.grants } ∧ Discarding p t ∧
            (t.part p).decision = some (.refused .aborted) ∧ t.queue = s.recordedIn p .aborted .refused s.queue ∧
            JobsReported g .idle .none s t ∧ kept t ∧ KeepsPort p.other s t) ∧
      (∀ r, r = .sclLow ∨ r = .sdaLow → releases r →
        (o.deferred = [] → exec c s = .next { s with seg := s.seg.set g (closing s.settings g o) }) ∧
          (o.deferred = [.disable] →
            exec c s = .next
              { s with seg := s.seg.set g { closing s.settings g o with deferred := [], disablePending := true } })) ∧
      (∀ p, o.deferred = [.request p] → (s.part p).segment = some g → (s.session.get p).owned = none → p ∉ o.waiters →
        (s.upi.get p).hold = true →
        (releases .formed → o.disablePending = false →
          (o.waiters = [] → ∃ t, exec c s = .next t ∧ granted p [] t ∧ KeepsRecords s t ∧ KeepsPort p.other s t) ∧
            ∀ q rest, o.waiters = q :: rest → ∃ t, exec c s = .next t ∧ granted q (joined p rest) t ∧ joins p t) ∧
          ∀ r, r = .sclLow ∨ r = .sdaLow → releases r →
            ∃ t, exec c s = .next t ∧
              t.seg.get g = { closing s.settings g o with waiters := joined p o.waiters, deferred := [] } ∧ joins p t ∧
              t.segCounters = s.segCounters ∧ t.slot = s.slot ∧ t.job = s.job ∧ kept t ∧ KeepsPort p.other s t) ∧
      (∀ r l d, releases r → o.deferred = l ++ [d] →
        ∃ u, exec c { s with seg := s.seg.set g { o with deferred := l } } = .next u ∧
          exec c s = .next (takeDeferred g d u)) ∧
      ∀ r, c = .releaseStopResult g r → o.act ≠ some .releaseStop ∨ o.owner ≠ none → exec c s = .next s

/-- A loss on an OWNED segment quarantines it FOREIGN and takes it from its session; a pending disable takes it on to
DISABLED; its waiters are refused SEGMENT_UNAVAILABLE, and the commands that wait on it complete or go on waiting. A
pending address is refused SEGMENT_LOST; a write byte not acknowledged, CUT; a requested read byte answered by the
filler byte, CUT; a write part with no byte pending enters DISCARD, a held sub-address byte cleared, and a read part
with none requested FILL, its byte going on, CUT both; between parts no record is made. A session that waits for a
segment owns none (R30, R50, R78, R99, R107 to R109, R112, R154, R168; the owner's record before or after the waiters':
log entry 10; the byte position of a held read: log entry 20). -/
def Obligations.LossQuarantines : Prop :=
  ∀ (p : Port) (g : SegId) (cause : LossCause) (s : State), s.phase = .inService →
    let e := s.session.get p
    let o := s.seg.get g
    o.state = .owned → o.owner = some p → e.owned = some g → e.state ≠ .grantWait → s.waitersHeld o.waiters →
    let x : SegState := if o.disablePending then .disabled else .quarantined
    let why : QuarantineReason := if o.disablePending then .none else .foreign
    let own (q : ViolationQueue) : ViolationQueue :=
      if e.state = .connect then s.recordedIn p .segmentLost .refused q
      else if e.state = .write ∨ e.state = .read then s.recordedIn p .segmentLost .cut q
      else q
    ∃ t, exec (.loss g cause) s = .next t ∧ (t.session.get p).owned = none ∧ (t.session.get p).pointer = none ∧
      (t.session.get p).remembered = none ∧ (t.session.get p).bank = e.bank ∧
      t.seg.get g =
        { o with
          state := x, owner := none, waiters := [], reason := why, disablePending := false, hold := none, act := none,
          ninthOwed := false } ∧
      t.segCounters.get g =
        { s.segCounters.get g with quarantines := satInc (s.segCounters.get g).quarantines } ∧
      KeepsOtherSegs g s t ∧ (∀ q, (t.flags.get q).segmentEvent = true ∧ t.alert.get q = t.alertLevel q) ∧
      (e.state = .connect ∨ e.state = .write → (s.upi.get p).hold = true → Discarding p t) ∧
      (e.state = .connect → (t.part p).decision = some (.refused .segmentLost)) ∧
      (e.state = .write → (s.upi.get p).hold = false →
        (t.session.get p).state = .discard ∧ (t.part p).held = none ∧ (t.upi.get p).hold = false ∧
          (t.upi.get p).ninth = (s.upi.get p).ninth ∧ (t.session.get p).stretch = e.stretch ∧
          (t.session.get p).abandon = e.abandon) ∧
      (e.state = .read → (s.upi.get p).hold = false →
        (t.session.get p).state = .fill ∧ t.upi.get p = s.upi.get p ∧ (t.part p).count = (s.part p).count) ∧
      (e.state = .read → (s.upi.get p).hold = true →
        (t.session.get p).state = .fill ∧ Freed p s t ∧ (t.upi.get p).shift = some s.settings.filler) ∧
      (e.state = .address → (t.session.get p).state = .address ∧ t.upi.get p = s.upi.get p) ∧
      (∀ q ∈ o.waiters, Discarding q t ∧ (t.part q).decision = some (.refused .segmentUnavailable)) ∧
      (p.other ∉ o.waiters → KeepsPort p.other s t) ∧
      (t.queue = s.refusedIn o.waiters (own s.queue) ∨ t.queue = own (s.refusedIn o.waiters s.queue)) ∧
      JobsReported g x why s t ∧ t.bank = s.bank ∧ t.bc = s.bc ∧ t.accounts = s.accounts ∧ t.refill = s.refill ∧
      t.portCounters = s.portCounters ∧ t.settings = s.settings ∧ t.parser = s.parser ∧ t.holder = s.holder ∧
      t.idle = s.idle

/-! ## Banks -/

/-- CHECKSUM fails when the CRC of the shadow image differs from the expected value, and reports 0xFFFF; while the
shadow validates, an edit of the holder is answered BUSY and changes nothing but the slot and the idle timer (R18). A
validation that fails returns the shadow to EDITABLE and completes the COMMIT with the failing check, and changes
nothing else (R137). -/
def Obligations.FailedCommitChangesNothing : Prop :=
  (∀ (m : Addr) (x : Half) (k : Bank), commitFailure m x k = some ⟨.checksum, 0xFFFF⟩ ↔ bankCrc k ≠ x) ∧
    (∀ k : Bank, bankCrc k = crc16 0xFFFF (bankImage k)) ∧
    (∀ (p : Port) (code : Byte) (args : List Byte) (s : State), s.holder = some p → s.job.get p = none →
      s.bc.locked = false → s.bc.shadow = .validating →
      ((code = 0x21 ∧ args.length = 8) ∨ (code = 0x22 ∧ args.length = 17) ∨ (code = 0x23 ∧ args.length = 1) ∨
        (code = 0x24 ∧ args.length ∈ [5, 9, 13, 17, 21, 25, 29])) →
      runFrame p code args s = s.answered p .busy []) ∧
    ∀ (j : CommitJob) (f : CommitFailure) (s : State), s.phase = .inService → s.bc.commit = some j →
      commitFailure (0x58#10 + s.straps.maddr.setWidth 10) j.expected (s.bank.get s.shadowId) = some f →
      exec .validationCompletion s = .next
        { s with
          bc := { s.bc with shadow := .editable, commit := none },
          slot := s.slot.set j.port ⟨.commitFailed, CommitReason.code f.reason :: be16 f.index⟩,
          job := s.job.set j.port none }

/-- The per-entry checks of a commit, whole. An invalid entry passes. They come in the order RESERVED_ADDRESS,
KIND_MISMATCH, WIDTH_LIST, LIST_BOUNDS, WINDOW_VALUE, LIST_ORDER, REFILL_MISSING; the window checks report the first
window that fails, of the write list before the read list, the others the entry. The first entry that fails is
reported, once the checksum matches (R8, R17, R19 to R21; DUPLICATE: ActiveBankHasNoDuplicate). -/
def Obligations.EntryChecksInOrder : Prop :=
  (∀ (m : Addr) (k : Bank) (i : EntryIdx),
      let e := tableGet k.entries i
      let usable (a : Addr) : Prop := 0x08 ≤ a.toNat ∧ a.toNat ≤ 0x77
      let reserved : Prop :=
        e.kind = .seven ∧
          (¬ usable e.matchAddr ∨ e.matchAddr = m ∨ ∃ a, e.target = some a ∧ a.toNat ≤ 0x7F ∧ ¬ usable a)
      let mismatch : Prop := e.kind = .seven ∧ ∃ a, e.target = some a ∧ 0x7F < a.toNat
      let present (l : WindowList) : Prop := e.writeList = some l ∨ e.readList = some l
      let listed : Prop := e.width = .w0 ∧ ∃ l, present l
      let outside : Prop := ∃ l, present l ∧ 256 < l.first.toNat + l.count.toNat
      let high (j : Nat) : Prop := ∃ w, k.windows[j]? = some w ∧ 0xFF < w.high.toNat
      let unordered (j : Nat) : Prop :=
        ∃ w v, k.windows[j - 1]? = some w ∧ k.windows[j]? = some v ∧ v.low.toNat ≤ w.high.toNat
      let highest (l : WindowList) (j : Nat) : Prop :=
        l.first.toNat ≤ j ∧ j < l.first.toNat + l.count.toNat ∧ high j ∧ ∀ n, l.first.toNat ≤ n → n < j → ¬ high n
      let later (l : WindowList) (j : Nat) : Prop :=
        l.first.toNat < j ∧ j < l.first.toNat + l.count.toNat ∧ unordered j ∧
          ∀ n, l.first.toNat < n → n < j → ¬ unordered n
      let reports (bad : WindowList → Nat → Prop) (j : Nat) : Prop :=
        (∃ l, e.writeList = some l ∧ bad l j) ∨
          ((∀ l, e.writeList = some l → ∀ n, ¬ bad l n) ∧ ∃ l, e.readList = some l ∧ bad l j)
      let missing : Prop :=
        (e.creditLimit.isSome ∧ e.creditRefill = 0) ∨ (e.creditLimit = none ∧ e.creditRefill ≠ 0)
      let fails (r : CommitReason) (j : Nat) : Prop := entryFailure m k i = some ⟨r, BitVec.ofNat 16 j⟩
      (e.valid = false → entryFailure m k i = none) ∧
        (e.valid = true →
          (reserved → fails .reservedAddress i.val) ∧
            (¬ reserved → mismatch → fails .kindMismatch i.val) ∧
            (¬ reserved → ¬ mismatch → listed → fails .widthList i.val) ∧
            (¬ reserved → ¬ mismatch → ¬ listed → outside → fails .listBounds i.val) ∧
            (¬ reserved → ¬ mismatch → ¬ listed → ¬ outside →
              (∀ j, e.width = .w1 → reports highest j → fails .windowValue j) ∧
                ((e.width = .w1 → ∀ j, ¬ reports highest j) →
                  (∀ j, reports later j → fails .listOrder j) ∧
                    ((∀ j, ¬ reports later j) →
                      (missing → fails .refillMissing i.val) ∧ (¬ missing → entryFailure m k i = none)))))) ∧
    ∀ (m : Addr) (x : Half) (k : Bank) (i : EntryIdx) (f : CommitFailure), bankCrc k = x →
      (∀ j, j < i → entryFailure m k j = none) → entryFailure m k i = some f → commitFailure m x k = some f

/-- A validation that passes swaps the banks in one event: the shadow becomes active with full buckets, zero counters
and its own refill tick, the old active bank drains or reloads, the COMMIT completes with the tag, COMMIT_DONE is
latched for its port; one that fails is FailedCommitChangesNothing. A reload copies the active bank and completes a
SHADOW_RELOAD (R117, R118, R121, R132, R133, R139, R154). -/
def Obligations.CommitAndReloadComplete : Prop :=
  ∀ s : State, s.phase = .inService →
    (s.bc.commit = none → exec .validationCompletion s = .next s) ∧
      (∀ j, s.bc.commit = some j →
        let k := s.bank.get s.shadowId
        commitFailure (0x58#10 + s.straps.maddr.setWidth 10) j.expected k = none →
        ∃ t, exec .validationCompletion s = .next t ∧
          t =
            { s with
              bc :=
                { s.bc with
                  active := s.shadowId, dirty := false, commit := none,
                  shadow := if s.bc.holders.get s.bc.active = 0 then .reloading else .draining },
              accounts := s.accounts.set s.shadowId (t.accounts.get s.shadowId),
              refill := some k.header.refillTick, slot := s.slot.set j.port ⟨.ok, be16 k.header.tag⟩,
              job := s.job.set j.port none, flags := s.flags.set j.port { s.flags.get j.port with commitDone := true },
              alert := s.alert.set j.port (t.alertLevel j.port) } ∧
          ∀ i, tableGet (t.accounts.get s.shadowId) i =
            { bucket :=
                if (tableGet k.entries i).valid then (tableGet k.entries i).creditLimit.map (·.toNat) else none,
              hits := 0, violations := 0 }) ∧
      (s.bc.shadow ≠ .reloading → exec .reloadCompletion s = .next s) ∧
      (s.bc.shadow = .reloading →
        exec .reloadCompletion s = .next
          { s with
            bank := .both (s.bank.get s.bc.active), bc := { s.bc with shadow := .editable, dirty := false },
            slot :=
              ⟨if s.job.up0 = some .shadowReload then ⟨.ok, []⟩ else s.slot.up0,
               if s.job.up1 = some .shadowReload then ⟨.ok, []⟩ else s.slot.up1⟩,
            job :=
              ⟨if s.job.up0 = some .shadowReload then none else s.job.up0,
               if s.job.up1 = some .shadowReload then none else s.job.up1⟩ })

/-! ## Management commands -/

/-- The reads of device state, each served whole: IDENT_READ, SETTINGS_READ, STATUS_READ (with clear yes the port's
flags are cleared after they are reported and its alert line is evaluated; a clear above 1 gives RANGE), VIOLATION_READ
with the twelve bytes of each record, SEGMENT_STATUS and COUNTER_READ with their RANGE cases (R152, R155, R157, R169,
R171, R172, R188, R190, R191; a command as a whole frame: log entry 11). -/
def Obligations.StatusReadsAnswer : Prop :=
  ∀ (p : Port) (s : State), s.serves p →
    let tag := (s.bank.get s.bc.active).header.tag
    let port (q : Option Port) : Byte := if q = some .up0 then 1 else if q = some .up1 then 2 else 0
    let flags : Byte :=
      (if (s.flags.get p).segmentEvent then 1 else 0) + (if (s.flags.get p).commitDone then 2 else 0) +
        (if (s.flags.get p).overflow then 4 else 0)
    let status : List Byte :=
      [if s.bc.active = .a then 0 else 1] ++ be16 tag ++
        [ShadowState.code s.bc.shadow,
          (if s.bc.dirty then 1 else 0) + (if s.bc.locked then 2 else 0), port s.holder,
          SegState.code s.seg.seg0.state, SegState.code s.seg.seg1.state, SegState.code s.seg.seg2.state,
          SegState.code s.seg.seg3.state, BitVec.ofNat 8 s.queue.records.length, flags]
    let segment (g : SegId) : List Byte :=
      let c := s.seg.get g
      [SegState.code c.state, port c.owner, BitVec.ofNat 8 c.waiters.length, port c.waiters[0]?, port c.waiters[1]?,
          QuarantineReason.code c.reason, if c.disablePending then 1 else 0, Speed.code c.speed, CloseStep.code c.step,
          BitVec.ofNat 8 c.pulses] ++
        be32 (s.segCounters.get g).grants ++ be16 (s.segCounters.get g).recoveries ++
        be16 (s.segCounters.get g).quarantines
    let account (k : BankId) (i : EntryIdx) : List Byte :=
      be32 (tableGet (s.accounts.get k) i).hits ++ be16 (tableGet (s.accounts.get k) i).violations
    let all (f : SegId → List Byte) : List Byte := f .seg0 ++ f .seg1 ++ f .seg2 ++ f .seg3
    let ports (q : Port) : List Byte := be16 (s.portCounters.get q).crcErrors ++ be16 (s.portCounters.get q).abandoned
    exec (.identRead p) s = .next (s.answered p .ok ([0x4B, 0x4A, 0x42, 0x00, 0x01] ++ be16 tag)) ∧
      exec (.settingsRead p) s = .next (s.answered p .ok (settingsImage s.settings)) ∧
      exec (.statusRead p 0) s = .next (s.answered p .ok status) ∧
      exec (.statusRead p 1) s = .next
        { s.answered p .ok status with
          flags := s.flags.set p ⟨false, false, false⟩,
          alert := s.alert.set p
            (if (s.settings.port.get p).mask.queue = true ∧ s.settings.watermark.toNat ≤ s.queue.records.length then .low
             else .high) } ∧
      (∀ c : Byte, 2 ≤ c.toNat → exec (.statusRead p c) s = .next (s.answered p .range [])) ∧
      exec (.violationRead p) s = .next
        (s.answered p .ok
          ([BitVec.ofNat 8 s.queue.records.length] ++ be16 s.queue.overflow ++
            (s.queue.records.take 2).flatMap recordBytes)) ∧
      (∀ g, exec (.segmentStatus p (SegId.code g)) s = .next (s.answered p .ok (segment g))) ∧
      (∀ x : Byte, 4 ≤ x.toNat → exec (.segmentStatus p x) s = .next (s.answered p .range [])) ∧
      (∀ i : EntryIdx,
        exec (.counterRead p 0 (BitVec.ofNat 8 i.val)) s = .next (s.answered p .ok (account s.bc.active i)) ∧
          exec (.counterRead p 3 (BitVec.ofNat 8 i.val)) s = .next (s.answered p .ok (account s.shadowId i))) ∧
      exec (.counterRead p 1 0) s = .next
        (s.answered p .ok
          (all (fun g => be32 (s.segCounters.get g).grants) ++ all (fun g => be16 (s.segCounters.get g).recoveries) ++
            all (fun g => be16 (s.segCounters.get g).quarantines))) ∧
      exec (.counterRead p 2 0) s = .next (s.answered p .ok (ports .up0 ++ ports .up1)) ∧
      ∀ kind index : Byte,
        (4 ≤ kind.toNat ∨ ((kind = 0 ∨ kind = 3) ∧ 128 ≤ index.toNat) ∨ ((kind = 1 ∨ kind = 2) ∧ index ≠ 0)) →
          exec (.counterRead p kind index) s = .next (s.answered p .range [])

/-- HEADER_READ, ENTRY_READ and WINDOW_READ return the image of the item: of the active bank in every state; of the shadow
in EDITABLE, with LOCKED under lockdown and BUSY otherwise; a bank select above 1, then an entry index above 127, gives
RANGE (R131, R170; a command as a whole frame: log entry 11). -/
def Obligations.BankReadsAnswer : Prop :=
  ∀ (p : Port) (s : State) (c : Instr) (select : Byte) (item : Bank → Option (List Byte)), s.serves p →
    ((c = .headerRead p select ∧ item = fun k => some (headerImage k.header)) ∨
      (∃ i : EntryIdx, c = .entryRead p select (BitVec.ofNat 8 i.val) ∧
        item = fun k => some (entryImage (tableGet k.entries i))) ∨
      (∃ x : Byte, c = .entryRead p select x ∧ 128 ≤ x.toNat ∧ item = fun _ => none) ∨
      ∃ j : WindowIdx, c = .windowRead p select (BitVec.ofNat 8 j.val) ∧
        item = fun k => some (windowImage (tableGet k.windows j))) →
    let served (k : BankId) : Host.Outcome State Fault Refusal :=
      .next
        (match item (s.bank.get k) with
         | some bytes => s.answered p .ok bytes
         | none => s.answered p .range [])
    (2 ≤ select.toNat → exec c s = .next (s.answered p .range [])) ∧ (select = 0 → exec c s = served s.bc.active) ∧
      (select = 1 →
        (s.bc.locked = true → exec c s = .next (s.answered p .locked [])) ∧
          (s.bc.locked = false → s.bc.shadow ≠ .editable → exec c s = .next (s.answered p .busy [])) ∧
          (s.bc.locked = false → s.bc.shadow = .editable → exec c s = served s.shadowId))

/-- SESSION_OPEN makes its port the holder or is answered OWNED with the holder; SESSION_CLOSE ends the holder's
session and is NO_SESSION for another port. A holder command of another port is NO_SESSION. A frame with another
argument length is BAD_LENGTH and starts no timer (R134, R163, R166, R167). A command the port cannot send a frame for
does nothing (a command as a whole frame: log entry 11). -/
def Obligations.SessionsOpenAndClose : Prop :=
  ∀ (p : Port) (s : State),
    (s.serves p →
        (s.holder ≠ some p.other →
          exec (.sessionOpen p) s = .next
            { s with
              holder := some p, idle := some s.settings.idleTimeout, slot := s.slot.set p ⟨.ok, []⟩ }) ∧
        (s.holder = some p.other →
          exec (.sessionOpen p) s = .next
            { s with slot := s.slot.set p ⟨.owned, [if p.other = .up0 then 1 else 2]⟩ }) ∧
        (s.holder = some p →
          exec (.sessionClose p) s = .next
            { s with holder := none, idle := none, slot := s.slot.set p ⟨.ok, []⟩ }) ∧
        (s.holder ≠ some p → exec (.sessionClose p) s = .next (s.slotted p .noSession))) ∧
      ∀ (c : Instr) (code : Byte) (args : List Byte), frameOf c = some (p, code, args) →
        (s.serves p → holderCommand c → s.holder ≠ some p → exec c s = .next (s.slotted p .noSession)) ∧
          (s.serves p → c.wellFormed = false → exec c s = .next (s.slotted p .badLength)) ∧
          (¬ s.serves p → exec c s = .next s)

/-- The holder's staging commands. Under lockdown all are LOCKED and outside EDITABLE BUSY. In EDITABLE an edit that
passes its field checks replaces its items in the shadow, sets the dirty flag and is OK, and one that fails is RANGE;
SHADOW_RELOAD and COMMIT begin their long commands, and LOCKDOWN locks (R13 to R16, R129, R130, R133, R135, R142, R173,
R174; a command as a whole frame: log entry 11; the running CRC of a validation: log entry 27). -/
def Obligations.StagingCommandsAct : Prop :=
  ∀ (p : Port) (s : State), s.serves p → s.holder = some p →
    (∀ c : Instr, c.wellFormed = true →
      ((∃ l, c = .headerWrite p l) ∨ (∃ x l, c = .entryWrite p x l) ∨ (∃ x, c = .entryClear p x) ∨
        (∃ x l, c = .windowWrite p x l) ∨ c = .shadowReload p ∨ (∃ x, c = .commit p x) ∨ c = .lockdown p) →
      (s.bc.locked = true → exec c s = .next (s.answered p .locked [])) ∧
        (s.bc.locked = false → s.bc.shadow ≠ .editable → exec c s = .next (s.answered p .busy []))) ∧
      (s.bc.locked = false → s.bc.shadow = .editable →
        let k := s.bank.get s.shadowId
        let ok := s.answered p .ok []
        let edited (k' : Bank) : State :=
          { ok with bank := s.bank.set s.shadowId k', bc := { s.bc with dirty := true } }
        (∀ l : List Byte, l.length = 8 →
            (∀ h, headerOfImage l = some h → exec (.headerWrite p l) s = .next (edited { k with header := h })) ∧
              (headerOfImage l = none → exec (.headerWrite p l) s = .next (s.answered p .range []))) ∧
          (∀ (x : Byte) (l : List Byte), l.length = 16 →
            (∀ (i : EntryIdx) (e : Entry), x = BitVec.ofNat 8 i.val → entryOfImage l = some e →
              exec (.entryWrite p x l) s = .next (edited { k with entries := tableSet k.entries i e })) ∧
              (128 ≤ x.toNat ∨ entryOfImage l = none →
                exec (.entryWrite p x l) s = .next (s.answered p .range []))) ∧
          (∀ i : EntryIdx,
            ∃ e, entryImage e = List.replicate 16 0#8 ∧
              exec (.entryClear p (BitVec.ofNat 8 i.val)) s = .next
                (edited { k with entries := tableSet k.entries i e })) ∧
          (∀ x : Byte, 128 ≤ x.toNat → exec (.entryClear p x) s = .next (s.answered p .range [])) ∧
          (∀ (x : Byte) (l : List Byte), (Instr.windowWrite p x l).wellFormed = true →
            (∀ ws, windowsOfImages l = some ws → x.toNat + ws.length ≤ 256 →
              ∃ v : Vector Window 256,
                (∀ j : WindowIdx, tableGet v j =
                  if x.toNat ≤ j.val then (ws[j.val - x.toNat]?).getD (tableGet k.windows j)
                  else tableGet k.windows j) ∧
                exec (.windowWrite p x l) s = .next (edited { k with windows := v })) ∧
              (windowsOfImages l = none ∨ 256 < x.toNat + l.length / 4 →
                exec (.windowWrite p x l) s = .next (s.answered p .range []))) ∧
          exec (.shadowReload p) s = .next
            { s.underWay p .shadowReload with bc := { s.bc with shadow := .reloading } } ∧
          (∀ x : Half, exec (.commit p x) s = .next
            { s.underWay p .commit with
              bc := { s.bc with shadow := .validating, commit := some { port := p, expected := x, running := 0xFFFF } } }) ∧
          exec (.lockdown p) s = .next
            { ok with bc := { s.bc with locked := true, shadow := .locked } })

/-- The holder's commands on the queue, the counters and the settings. VIOLATION_ACK removes the oldest records, at
most all, answers how many, and clears the overflow counter of an emptied queue; COUNTERS_CLEAR zeroes the counters of
the active bank, the segments and the ports, and no bucket; SETTINGS_WRITE replaces the record whole or is RANGE. Both
alert lines are evaluated after a removal and after new settings (R124, R153, R156, R157, R172, R175, R180; the idle
timer takes the timeout before the command's effect: log entry 28). -/
def Obligations.QueueCounterAndSettingsCommandsAct : Prop :=
  ∀ (p : Port) (s : State), s.serves p → s.holder = some p →
    let ok := s.answered p .ok []
    (∀ n : Byte, ∃ t, exec (.violationAck p n) s = .next t ∧
      t =
        { s.answered p .ok [BitVec.ofNat 8 (min n.toNat s.queue.records.length)] with
          queue :=
            { s.queue with
              records := s.queue.records.drop n.toNat,
              overflow := if s.queue.records.length ≤ n.toNat then 0 else s.queue.overflow },
          alert := ⟨t.alertLevel .up0, t.alertLevel .up1⟩ }) ∧
      (∃ t, exec (.countersClear p) s = .next t ∧
        t =
          { ok with
            accounts := t.accounts, segCounters := .all ⟨0, 0, 0⟩, portCounters := .both ⟨0, 0⟩ } ∧
        (∀ i, tableGet (t.accounts.get s.bc.active) i =
          { tableGet (s.accounts.get s.bc.active) i with hits := 0, violations := 0 }) ∧
        t.accounts.get s.shadowId = s.accounts.get s.shadowId) ∧
      ∀ l : List Byte, l.length = 16 →
        (∀ r, settingsOfBytes l = some r →
          ∃ t, exec (.settingsWrite p l) s = .next t ∧
            t = { ok with settings := r, alert := ⟨t.alertLevel .up0, t.alertLevel .up1⟩ }) ∧
          (settingsOfBytes l = none → exec (.settingsWrite p l) s = .next (s.answered p .range []))

/-- The holder's segment commands; a segment above 3 is RANGE. SEGMENT_ENABLE takes a DISABLED segment, SEGMENT_RELEASE
a QUARANTINED one, to CLOSING and is long, and is STATE otherwise. SEGMENT_DISABLE takes an IDLE or QUARANTINED segment
to DISABLED and is OK, as for a DISABLED one, and a command of the other port that waits on the segment completes; for
a CLOSING one a disable is pending; an OWNED one is first aborted and given up (R49, R109 to R111, R168, R176). On a
segment whose STOP of a release is being driven it is long and waits for that STOP, after what waits for it already
(log entry 6; the byte position of a held read: log entry 20; a command as a whole frame: log entry 11). -/
def Obligations.SegmentCommandsAct : Prop :=
  ∀ (p : Port) (s : State), s.serves p → s.holder = some p →
    (∀ x : Byte, 4 ≤ x.toNat → ∀ c, c = .segmentDisable p x ∨ c = .segmentEnable p x ∨ c = .segmentRelease p x →
      exec c s = .next (s.answered p .range [])) ∧
      ∀ g : SegId,
        let x := SegId.code g
        let c := s.seg.get g
        let off : Segment :=
          { c with
            state := .disabled, owner := none, reason := .none, disablePending := false, hold := none, act := none,
            ninthOwed := false }
        (c.state = .disabled →
            exec (.segmentEnable p x) s = .next
              { s.underWay p (.segmentEnable g) with seg := s.seg.set g (closing s.settings g c) }) ∧
          (c.state ≠ .disabled → exec (.segmentEnable p x) s = .next (s.answered p .state [])) ∧
          (c.state = .quarantined →
            exec (.segmentRelease p x) s = .next
              { s.underWay p (.segmentRelease g) with seg := s.seg.set g (closing s.settings g c) }) ∧
          (c.state ≠ .quarantined → exec (.segmentRelease p x) s = .next (s.answered p .state [])) ∧
          (c.state = .disabled → exec (.segmentDisable p x) s = .next (s.answered p .ok [])) ∧
          (c.state = .idle ∨ c.state = .quarantined → c.waiters = [] →
            exec (.segmentDisable p x) s = .next
              { s.answered p .ok [] with
                seg := s.seg.set g off,
                slot := (s.slot.set p ⟨.ok, []⟩).set p.other (s.jobAfter g .disabled .none p.other).1,
                job := s.job.set p.other (s.jobAfter g .disabled .none p.other).2 }) ∧
          (c.state = .closing →
            exec (.segmentDisable p x) s = .next
              { s.underWay p (.segmentDisable g) with seg := s.seg.set g { c with disablePending := true } }) ∧
          (c.state = .owned → c.owner = none →
            exec (.segmentDisable p x) s = .next
              { s.underWay p (.segmentDisable g) with
                seg := s.seg.set g { c with deferred := c.deferred ++ [.disable] } }) ∧
          ∀ q, c.state = .owned → c.owner = some q → (s.session.get q).owned = some g →
            (s.session.get q).state ≠ .grantWait →
            ∃ t, exec (.segmentDisable p x) s = .next t ∧
              t.seg.get g = { closing s.settings g c with disablePending := true } ∧ KeepsOtherSegs g s t ∧
              t.segCounters = s.segCounters ∧ t.slot = (s.underWay p (.segmentDisable g)).slot ∧
              t.job = (s.underWay p (.segmentDisable g)).job ∧ t.idle = s.idleAfter p ∧ Aborted q s t ∧
              KeepsPort q.other s t ∧ t.queue = s.abortRecord q s.queue ∧ KeepsPolicy s t ∧ t.bc = s.bc ∧
              t.parser = s.parser ∧ t.holder = s.holder ∧ t.settings = s.settings

/-- ABORT_ALL aborts every part in GRANT_WAIT, CONNECT, WRITE and READ, with the record of each that made none, in
either order; every segment a session owns is given up, and a waiting port leaves its list, or withdraws its request
that waits for the STOP of a release (log entry 5). It is OK at once, with the number of parts and the four segment
states, when no segment is given up; otherwise it is long (R49, R99, R101, R112, R151, R168, R177; the order is a free
value: log entry 10; the byte position of a held read: log entry 20; a command as a whole frame: log entry 11). -/
def Obligations.AbortAllActs : Prop :=
  ∀ (p : Port) (s : State), s.serves p → s.holder = some p →
    let owned : List SegId := (s.session.get .up0).owned.toList ++ (s.session.get .up1).owned.toList
    let n := (if s.relaying .up0 = true then 1 else 0) + (if s.relaying .up1 = true then 1 else 0)
    ∃ t, exec (.abortAll p) s = .next t ∧ (∀ q, Aborted q s t) ∧
      (∀ g,
        let c := s.withdrawn .up1 g (s.withdrawn .up0 g (s.seg.get g))
        t.seg.get g = if g ∈ owned then closing s.settings g c else c) ∧
      (t.queue = s.abortRecord .up1 (s.abortRecord .up0 s.queue) ∨
        t.queue = s.abortRecord .up0 (s.abortRecord .up1 s.queue)) ∧
      (owned = [] →
        t.job = s.job ∧
          t.slot = s.slot.set p
            ⟨.ok,
              BitVec.ofNat 8 n :: [SegId.seg0, .seg1, .seg2, .seg3].map fun g => SegState.code (t.seg.get g).state⟩) ∧
      (owned ≠ [] →
        t.job = s.job.set p (some (.abortAll n owned)) ∧ t.slot = s.slot.set p ⟨.inProgress, []⟩) ∧
      t.idle = s.idleAfter p ∧ t.segCounters = s.segCounters ∧ KeepsPolicy s t ∧ t.bc = s.bc ∧ t.parser = s.parser ∧
      t.holder = s.holder ∧ t.settings = s.settings

/-- A repeated START, a STOP or an abandonment ends the write frame of a part in MGMT by its parser's state, and the
parser is ready for the next: no byte or a refused frame changes nothing, a short or over-long one is BAD_LENGTH, a
wrong CRC is BAD_CRC and is counted, and a right one executes its command as that command's row does. A repeated START
keeps the session; STOP and abandonment end it and release its bank after the frame (R43, R46, R48, R161, R163; a row
is its whole frame: log entry 11; the order with the bank release: log entry 21; the part a repeated START leaves: log
entries 16 and 22; the count of an abandonment before its frame: log entry 29). -/
def Obligations.FrameEndActs : Prop :=
  ∀ (p : Port) (s : State), s.phase = .inService → (s.session.get p).state = .mgmt →
    (s.part p).direction = .write → (s.session.get p).owned = none → s.free p = true →
    s.straps.mgmten.get p = true →
    ((s.parser.get p).state ≠ .awaitCommand → (s.parser.get p).state ≠ .refused → s.job.get p = none) →
    let ends (u t : State) : Prop :=
      t =
          { u with
            session := u.session.set p idleSession,
            upi := u.upi.set p { phase := .quiet, hold := false, shift := none, ninth := none },
            readback := u.readback.set p [], bc := t.bc } ∧
        (∀ k, t.bc.holders.get k =
          if (s.session.get p).bank = some k then u.bc.holders.get k - 1 else u.bc.holders.get k) ∧
        t.bc.shadow =
          (if u.bc.shadow = .draining ∧ (s.session.get p).bank = some u.shadowId ∧ u.bc.holders.get u.shadowId - 1 = 0
           then .reloading else u.bc.shadow) ∧
        t.bc.active = u.bc.active ∧ t.bc.dirty = u.bc.dirty ∧ t.bc.locked = u.bc.locked ∧ t.bc.commit = u.bc.commit
    (∃ u, FrameEnds p s u ∧
        exec (.repeatedStart p) s = .next
          { u with
            session := u.session.set p
              { u.session.get p with
                state := .address,
                part :=
                  { decision := none, direction := .write, count := 0, held := none, sub := [], recorded := false,
                    length := 0, kind := .seven, address := 0, segment := none, target := 0 } },
            upi := u.upi.set p { phase := .receive, hold := false, shift := none, ninth := none },
            readback := u.readback.set p [] }) ∧
      (∃ u t, FrameEnds p s u ∧ exec (.stop p) s = .next t ∧ ends u t) ∧
      ((s.session.get p).abandon.isSome →
        ∃ u t,
          FrameEnds p
              { s with
                portCounters := s.portCounters.set p
                  { s.portCounters.get p with abandoned := satInc (s.portCounters.get p).abandoned } }
              u ∧
            exec (.abandonTimerExpiry p) s = .next t ∧ ends u t)

/-! ## Images -/

/-- The images of headers, entries, windows and Settings records carry every value once: what an accepted image decodes
to encodes to that image, what could be written decodes from its image to itself, and two banks of such items with the
same 3080-byte image are equal (R2, R14, R15, R180, R189, R192). -/
def Obligations.ImagesDecode : Prop :=
  (∀ l h, headerOfImage l = some h → headerImage h = l) ∧ (∀ l e, entryOfImage l = some e → entryImage e = l) ∧
    (∀ l ws, windowsOfImages l = some ws → ws.flatMap windowImage = l) ∧
    (∀ l r, settingsOfBytes l = some r → settingsImage r = l) ∧
    (∀ h : Header, h.refillTick ≠ 0 → headerOfImage (headerImage h) = some h) ∧
    (∀ e : Entry,
      (e.kind = .seven → e.matchAddr.toNat ≤ 0x7F) →
      (∀ l, e.writeList = some l ∨ e.readList = some l → 1 ≤ l.count.toNat ∧ l.count.toNat ≤ 16) →
      e.writeLimit ≠ some 0 → e.readLimit ≠ some 0 → e.creditLimit ≠ some 0 →
      entryOfImage (entryImage e) = some e) ∧
    (∀ ws : List Window, (∀ w ∈ ws, w.low.toNat ≤ w.high.toNat) →
      windowsOfImages (ws.flatMap windowImage) = some ws) ∧
    (∀ r : Settings, SettingsSafe r → settingsOfBytes (settingsImage r) = some r) ∧
    (∀ k : Bank, (bankImage k).length = 3080) ∧
    ∀ k k' : Bank, BankSafe k → BankSafe k' → bankImage k = bankImage k' → k = k'
end

