-- ==== Sys2Proof/Laws/Tables.lean ====
section
/-!
SUPPORT. Reading a table after one of its items was replaced: one value per port, segment, bank, and items of fixed-length
tables.
-/

namespace Sys2Proof

variable {α : Type}

@[simp] theorem PerPort.get_set (t : PerPort α) (p q : Port) (x : α) :
    (t.set p x).get q = if q = p then x else t.get q := by
  cases p <;> cases q <;> rfl

@[simp] theorem PerPort.get_both (x : α) (p : Port) : (PerPort.both x).get p = x := by
  cases p <;> rfl

@[simp] theorem PerPort.set_set (t : PerPort α) (p : Port) (x y : α) : (t.set p x).set p y = t.set p y := by
  cases p <;> rfl

@[simp] theorem PerPort.set_get (t : PerPort α) (p : Port) : t.set p (t.get p) = t := by
  cases p <;> rfl

@[simp] theorem PerSeg.get_set (t : PerSeg α) (g h : SegId) (x : α) :
    (t.set g x).get h = if h = g then x else t.get h := by
  cases g <;> cases h <;> rfl

@[simp] theorem PerSeg.get_all (x : α) (g : SegId) : (PerSeg.all x).get g = x := by
  cases g <;> rfl

@[simp] theorem PerSeg.set_set (t : PerSeg α) (g : SegId) (x y : α) : (t.set g x).set g y = t.set g y := by
  cases g <;> rfl

@[simp] theorem PerSeg.set_get (t : PerSeg α) (g : SegId) : t.set g (t.get g) = t := by
  cases g <;> rfl

@[simp] theorem PerSeg.get_of (f : SegId → α) (g : SegId) : (PerSeg.of f).get g = f g := by
  cases g <;> rfl

@[simp] theorem PerBank.get_set (t : PerBank α) (k l : BankId) (x : α) :
    (t.set k x).get l = if l = k then x else t.get l := by
  cases k <;> cases l <;> rfl

@[simp] theorem PerBank.get_both (x : α) (k : BankId) : (PerBank.both x).get k = x := by
  cases k <;> rfl

@[simp] theorem PerBank.set_set (t : PerBank α) (k : BankId) (x y : α) : (t.set k x).set k y = t.set k y := by
  cases k <;> rfl

@[simp] theorem PerBank.set_get (t : PerBank α) (k : BankId) : t.set k (t.get k) = t := by
  cases k <;> rfl

@[simp] theorem Port.other_other (p : Port) : p.other.other = p := by
  cases p <;> rfl

@[simp] theorem Port.other_ne (p : Port) : p.other ≠ p := by
  cases p <;> decide

@[simp] theorem BankId.other_other (k : BankId) : k.other.other = k := by
  cases k <;> rfl

@[simp] theorem BankId.other_ne (k : BankId) : k.other ≠ k := by
  cases k <;> decide

@[simp] theorem BankId.ne_other (k : BankId) : k ≠ k.other := by
  cases k <;> decide

theorem BankId.eq_or_other (k l : BankId) : l = k ∨ l = k.other := by
  cases k <;> cases l <;> decide

@[simp] theorem tableGet_tableSet {n : Nat} (v : Vector α n) (i j : Fin n) (x : α) :
    tableGet (tableSet v i x) j = if j = i then x else tableGet v j := by
  by_cases h : j = i
  · subst h
    simp [tableGet, tableSet]
  · have h' : i.val ≠ j.val := fun e => h (Fin.ext e.symm)
    simp [tableGet, tableSet, h, Vector.getElem_set_ne, h']

@[simp] theorem tableGet_tableOf {n : Nat} (f : Fin n → α) (i : Fin n) : tableGet (tableOf n f) i = f i := by
  simp [tableGet, tableOf]

@[simp] theorem tableGet_replicate {n : Nat} (x : α) (i : Fin n) : tableGet (Vector.replicate n x) i = x := by
  simp [tableGet]

@[simp] theorem tableGet_map {β : Type} {n : Nat} (f : α → β) (v : Vector α n) (i : Fin n) :
    tableGet (v.map f) i = f (tableGet v i) := by
  simp [tableGet]

end Sys2Proof
end

