-- ==== Sys2Proof/Laws/State.lean ====
section
/-!
SUPPORT. What each update of one component of the state leaves in every field: one lemma per field per update, by rfl.
-/

namespace Sys2Proof.Machine

variable (s : State)

section

variable (p : Port) (f : Upi → Upi)

@[simp] theorem State.updUpi_pending : (s.updUpi p f).pending = s.pending := rfl
@[simp] theorem State.updUpi_choice : (s.updUpi p f).choice = s.choice := rfl
@[simp] theorem State.updUpi_phase : (s.updUpi p f).phase = s.phase := rfl
@[simp] theorem State.updUpi_resetPin : (s.updUpi p f).resetPin = s.resetPin := rfl
@[simp] theorem State.updUpi_straps : (s.updUpi p f).straps = s.straps := rfl
@[simp] theorem State.updUpi_settings : (s.updUpi p f).settings = s.settings := rfl
@[simp] theorem State.updUpi_upi : (s.updUpi p f).upi = s.upi.set p (f (s.upi.get p)) := rfl
@[simp] theorem State.updUpi_session : (s.updUpi p f).session = s.session := rfl
@[simp] theorem State.updUpi_seg : (s.updUpi p f).seg = s.seg := rfl
@[simp] theorem State.updUpi_segCounters : (s.updUpi p f).segCounters = s.segCounters := rfl
@[simp] theorem State.updUpi_bank : (s.updUpi p f).bank = s.bank := rfl
@[simp] theorem State.updUpi_bc : (s.updUpi p f).bc = s.bc := rfl
@[simp] theorem State.updUpi_accounts : (s.updUpi p f).accounts = s.accounts := rfl
@[simp] theorem State.updUpi_portCounters : (s.updUpi p f).portCounters = s.portCounters := rfl
@[simp] theorem State.updUpi_refill : (s.updUpi p f).refill = s.refill := rfl
@[simp] theorem State.updUpi_queue : (s.updUpi p f).queue = s.queue := rfl
@[simp] theorem State.updUpi_flags : (s.updUpi p f).flags = s.flags := rfl
@[simp] theorem State.updUpi_alert : (s.updUpi p f).alert = s.alert := rfl
@[simp] theorem State.updUpi_parser : (s.updUpi p f).parser = s.parser := rfl
@[simp] theorem State.updUpi_slot : (s.updUpi p f).slot = s.slot := rfl
@[simp] theorem State.updUpi_readback : (s.updUpi p f).readback = s.readback := rfl
@[simp] theorem State.updUpi_job : (s.updUpi p f).job = s.job := rfl
@[simp] theorem State.updUpi_holder : (s.updUpi p f).holder = s.holder := rfl
@[simp] theorem State.updUpi_idle : (s.updUpi p f).idle = s.idle := rfl

end

section

variable (p : Port) (f : Session → Session)

@[simp] theorem State.updSession_pending : (s.updSession p f).pending = s.pending := rfl
@[simp] theorem State.updSession_choice : (s.updSession p f).choice = s.choice := rfl
@[simp] theorem State.updSession_phase : (s.updSession p f).phase = s.phase := rfl
@[simp] theorem State.updSession_resetPin : (s.updSession p f).resetPin = s.resetPin := rfl
@[simp] theorem State.updSession_straps : (s.updSession p f).straps = s.straps := rfl
@[simp] theorem State.updSession_settings : (s.updSession p f).settings = s.settings := rfl
@[simp] theorem State.updSession_upi : (s.updSession p f).upi = s.upi := rfl
@[simp] theorem State.updSession_session : (s.updSession p f).session = s.session.set p (f (s.session.get p)) := rfl
@[simp] theorem State.updSession_seg : (s.updSession p f).seg = s.seg := rfl
@[simp] theorem State.updSession_segCounters : (s.updSession p f).segCounters = s.segCounters := rfl
@[simp] theorem State.updSession_bank : (s.updSession p f).bank = s.bank := rfl
@[simp] theorem State.updSession_bc : (s.updSession p f).bc = s.bc := rfl
@[simp] theorem State.updSession_accounts : (s.updSession p f).accounts = s.accounts := rfl
@[simp] theorem State.updSession_portCounters : (s.updSession p f).portCounters = s.portCounters := rfl
@[simp] theorem State.updSession_refill : (s.updSession p f).refill = s.refill := rfl
@[simp] theorem State.updSession_queue : (s.updSession p f).queue = s.queue := rfl
@[simp] theorem State.updSession_flags : (s.updSession p f).flags = s.flags := rfl
@[simp] theorem State.updSession_alert : (s.updSession p f).alert = s.alert := rfl
@[simp] theorem State.updSession_parser : (s.updSession p f).parser = s.parser := rfl
@[simp] theorem State.updSession_slot : (s.updSession p f).slot = s.slot := rfl
@[simp] theorem State.updSession_readback : (s.updSession p f).readback = s.readback := rfl
@[simp] theorem State.updSession_job : (s.updSession p f).job = s.job := rfl
@[simp] theorem State.updSession_holder : (s.updSession p f).holder = s.holder := rfl
@[simp] theorem State.updSession_idle : (s.updSession p f).idle = s.idle := rfl

end

section

variable (p : Port) (f : Part → Part)

@[simp] theorem State.updPart_pending : (s.updPart p f).pending = s.pending := rfl
@[simp] theorem State.updPart_choice : (s.updPart p f).choice = s.choice := rfl
@[simp] theorem State.updPart_phase : (s.updPart p f).phase = s.phase := rfl
@[simp] theorem State.updPart_resetPin : (s.updPart p f).resetPin = s.resetPin := rfl
@[simp] theorem State.updPart_straps : (s.updPart p f).straps = s.straps := rfl
@[simp] theorem State.updPart_settings : (s.updPart p f).settings = s.settings := rfl
@[simp] theorem State.updPart_upi : (s.updPart p f).upi = s.upi := rfl
@[simp] theorem State.updPart_session : (s.updPart p f).session =
    s.session.set p { s.session.get p with part := f (s.session.get p).part } := rfl
@[simp] theorem State.updPart_seg : (s.updPart p f).seg = s.seg := rfl
@[simp] theorem State.updPart_segCounters : (s.updPart p f).segCounters = s.segCounters := rfl
@[simp] theorem State.updPart_bank : (s.updPart p f).bank = s.bank := rfl
@[simp] theorem State.updPart_bc : (s.updPart p f).bc = s.bc := rfl
@[simp] theorem State.updPart_accounts : (s.updPart p f).accounts = s.accounts := rfl
@[simp] theorem State.updPart_portCounters : (s.updPart p f).portCounters = s.portCounters := rfl
@[simp] theorem State.updPart_refill : (s.updPart p f).refill = s.refill := rfl
@[simp] theorem State.updPart_queue : (s.updPart p f).queue = s.queue := rfl
@[simp] theorem State.updPart_flags : (s.updPart p f).flags = s.flags := rfl
@[simp] theorem State.updPart_alert : (s.updPart p f).alert = s.alert := rfl
@[simp] theorem State.updPart_parser : (s.updPart p f).parser = s.parser := rfl
@[simp] theorem State.updPart_slot : (s.updPart p f).slot = s.slot := rfl
@[simp] theorem State.updPart_readback : (s.updPart p f).readback = s.readback := rfl
@[simp] theorem State.updPart_job : (s.updPart p f).job = s.job := rfl
@[simp] theorem State.updPart_holder : (s.updPart p f).holder = s.holder := rfl
@[simp] theorem State.updPart_idle : (s.updPart p f).idle = s.idle := rfl

end

section

variable (p : Port) (t : SessionState)

@[simp] theorem State.setSessionState_pending : (s.setSessionState p t).pending = s.pending := rfl
@[simp] theorem State.setSessionState_choice : (s.setSessionState p t).choice = s.choice := rfl
@[simp] theorem State.setSessionState_phase : (s.setSessionState p t).phase = s.phase := rfl
@[simp] theorem State.setSessionState_resetPin : (s.setSessionState p t).resetPin = s.resetPin := rfl
@[simp] theorem State.setSessionState_straps : (s.setSessionState p t).straps = s.straps := rfl
@[simp] theorem State.setSessionState_settings : (s.setSessionState p t).settings = s.settings := rfl
@[simp] theorem State.setSessionState_upi : (s.setSessionState p t).upi = s.upi := rfl
@[simp] theorem State.setSessionState_session : (s.setSessionState p t).session =
    s.session.set p { s.session.get p with state := t } := rfl
@[simp] theorem State.setSessionState_seg : (s.setSessionState p t).seg = s.seg := rfl
@[simp] theorem State.setSessionState_segCounters : (s.setSessionState p t).segCounters = s.segCounters := rfl
@[simp] theorem State.setSessionState_bank : (s.setSessionState p t).bank = s.bank := rfl
@[simp] theorem State.setSessionState_bc : (s.setSessionState p t).bc = s.bc := rfl
@[simp] theorem State.setSessionState_accounts : (s.setSessionState p t).accounts = s.accounts := rfl
@[simp] theorem State.setSessionState_portCounters : (s.setSessionState p t).portCounters = s.portCounters := rfl
@[simp] theorem State.setSessionState_refill : (s.setSessionState p t).refill = s.refill := rfl
@[simp] theorem State.setSessionState_queue : (s.setSessionState p t).queue = s.queue := rfl
@[simp] theorem State.setSessionState_flags : (s.setSessionState p t).flags = s.flags := rfl
@[simp] theorem State.setSessionState_alert : (s.setSessionState p t).alert = s.alert := rfl
@[simp] theorem State.setSessionState_parser : (s.setSessionState p t).parser = s.parser := rfl
@[simp] theorem State.setSessionState_slot : (s.setSessionState p t).slot = s.slot := rfl
@[simp] theorem State.setSessionState_readback : (s.setSessionState p t).readback = s.readback := rfl
@[simp] theorem State.setSessionState_job : (s.setSessionState p t).job = s.job := rfl
@[simp] theorem State.setSessionState_holder : (s.setSessionState p t).holder = s.holder := rfl
@[simp] theorem State.setSessionState_idle : (s.setSessionState p t).idle = s.idle := rfl

end

section

variable (g : SegId) (f : Segment → Segment)

@[simp] theorem State.updSeg_pending : (s.updSeg g f).pending = s.pending := rfl
@[simp] theorem State.updSeg_choice : (s.updSeg g f).choice = s.choice := rfl
@[simp] theorem State.updSeg_phase : (s.updSeg g f).phase = s.phase := rfl
@[simp] theorem State.updSeg_resetPin : (s.updSeg g f).resetPin = s.resetPin := rfl
@[simp] theorem State.updSeg_straps : (s.updSeg g f).straps = s.straps := rfl
@[simp] theorem State.updSeg_settings : (s.updSeg g f).settings = s.settings := rfl
@[simp] theorem State.updSeg_upi : (s.updSeg g f).upi = s.upi := rfl
@[simp] theorem State.updSeg_session : (s.updSeg g f).session = s.session := rfl
@[simp] theorem State.updSeg_seg : (s.updSeg g f).seg = s.seg.set g (f (s.seg.get g)) := rfl
@[simp] theorem State.updSeg_segCounters : (s.updSeg g f).segCounters = s.segCounters := rfl
@[simp] theorem State.updSeg_bank : (s.updSeg g f).bank = s.bank := rfl
@[simp] theorem State.updSeg_bc : (s.updSeg g f).bc = s.bc := rfl
@[simp] theorem State.updSeg_accounts : (s.updSeg g f).accounts = s.accounts := rfl
@[simp] theorem State.updSeg_portCounters : (s.updSeg g f).portCounters = s.portCounters := rfl
@[simp] theorem State.updSeg_refill : (s.updSeg g f).refill = s.refill := rfl
@[simp] theorem State.updSeg_queue : (s.updSeg g f).queue = s.queue := rfl
@[simp] theorem State.updSeg_flags : (s.updSeg g f).flags = s.flags := rfl
@[simp] theorem State.updSeg_alert : (s.updSeg g f).alert = s.alert := rfl
@[simp] theorem State.updSeg_parser : (s.updSeg g f).parser = s.parser := rfl
@[simp] theorem State.updSeg_slot : (s.updSeg g f).slot = s.slot := rfl
@[simp] theorem State.updSeg_readback : (s.updSeg g f).readback = s.readback := rfl
@[simp] theorem State.updSeg_job : (s.updSeg g f).job = s.job := rfl
@[simp] theorem State.updSeg_holder : (s.updSeg g f).holder = s.holder := rfl
@[simp] theorem State.updSeg_idle : (s.updSeg g f).idle = s.idle := rfl

end

section

variable (g : SegId) (f : SegCounters → SegCounters)

@[simp] theorem State.updSegCounters_pending : (s.updSegCounters g f).pending = s.pending := rfl
@[simp] theorem State.updSegCounters_choice : (s.updSegCounters g f).choice = s.choice := rfl
@[simp] theorem State.updSegCounters_phase : (s.updSegCounters g f).phase = s.phase := rfl
@[simp] theorem State.updSegCounters_resetPin : (s.updSegCounters g f).resetPin = s.resetPin := rfl
@[simp] theorem State.updSegCounters_straps : (s.updSegCounters g f).straps = s.straps := rfl
@[simp] theorem State.updSegCounters_settings : (s.updSegCounters g f).settings = s.settings := rfl
@[simp] theorem State.updSegCounters_upi : (s.updSegCounters g f).upi = s.upi := rfl
@[simp] theorem State.updSegCounters_session : (s.updSegCounters g f).session = s.session := rfl
@[simp] theorem State.updSegCounters_seg : (s.updSegCounters g f).seg = s.seg := rfl
@[simp] theorem State.updSegCounters_segCounters : (s.updSegCounters g f).segCounters =
    s.segCounters.set g (f (s.segCounters.get g)) := rfl
@[simp] theorem State.updSegCounters_bank : (s.updSegCounters g f).bank = s.bank := rfl
@[simp] theorem State.updSegCounters_bc : (s.updSegCounters g f).bc = s.bc := rfl
@[simp] theorem State.updSegCounters_accounts : (s.updSegCounters g f).accounts = s.accounts := rfl
@[simp] theorem State.updSegCounters_portCounters : (s.updSegCounters g f).portCounters = s.portCounters := rfl
@[simp] theorem State.updSegCounters_refill : (s.updSegCounters g f).refill = s.refill := rfl
@[simp] theorem State.updSegCounters_queue : (s.updSegCounters g f).queue = s.queue := rfl
@[simp] theorem State.updSegCounters_flags : (s.updSegCounters g f).flags = s.flags := rfl
@[simp] theorem State.updSegCounters_alert : (s.updSegCounters g f).alert = s.alert := rfl
@[simp] theorem State.updSegCounters_parser : (s.updSegCounters g f).parser = s.parser := rfl
@[simp] theorem State.updSegCounters_slot : (s.updSegCounters g f).slot = s.slot := rfl
@[simp] theorem State.updSegCounters_readback : (s.updSegCounters g f).readback = s.readback := rfl
@[simp] theorem State.updSegCounters_job : (s.updSegCounters g f).job = s.job := rfl
@[simp] theorem State.updSegCounters_holder : (s.updSegCounters g f).holder = s.holder := rfl
@[simp] theorem State.updSegCounters_idle : (s.updSegCounters g f).idle = s.idle := rfl

end

section

variable (k : BankId) (f : Bank → Bank)

@[simp] theorem State.updBank_pending : (s.updBank k f).pending = s.pending := rfl
@[simp] theorem State.updBank_choice : (s.updBank k f).choice = s.choice := rfl
@[simp] theorem State.updBank_phase : (s.updBank k f).phase = s.phase := rfl
@[simp] theorem State.updBank_resetPin : (s.updBank k f).resetPin = s.resetPin := rfl
@[simp] theorem State.updBank_straps : (s.updBank k f).straps = s.straps := rfl
@[simp] theorem State.updBank_settings : (s.updBank k f).settings = s.settings := rfl
@[simp] theorem State.updBank_upi : (s.updBank k f).upi = s.upi := rfl
@[simp] theorem State.updBank_session : (s.updBank k f).session = s.session := rfl
@[simp] theorem State.updBank_seg : (s.updBank k f).seg = s.seg := rfl
@[simp] theorem State.updBank_segCounters : (s.updBank k f).segCounters = s.segCounters := rfl
@[simp] theorem State.updBank_bank : (s.updBank k f).bank = s.bank.set k (f (s.bank.get k)) := rfl
@[simp] theorem State.updBank_bc : (s.updBank k f).bc = s.bc := rfl
@[simp] theorem State.updBank_accounts : (s.updBank k f).accounts = s.accounts := rfl
@[simp] theorem State.updBank_portCounters : (s.updBank k f).portCounters = s.portCounters := rfl
@[simp] theorem State.updBank_refill : (s.updBank k f).refill = s.refill := rfl
@[simp] theorem State.updBank_queue : (s.updBank k f).queue = s.queue := rfl
@[simp] theorem State.updBank_flags : (s.updBank k f).flags = s.flags := rfl
@[simp] theorem State.updBank_alert : (s.updBank k f).alert = s.alert := rfl
@[simp] theorem State.updBank_parser : (s.updBank k f).parser = s.parser := rfl
@[simp] theorem State.updBank_slot : (s.updBank k f).slot = s.slot := rfl
@[simp] theorem State.updBank_readback : (s.updBank k f).readback = s.readback := rfl
@[simp] theorem State.updBank_job : (s.updBank k f).job = s.job := rfl
@[simp] theorem State.updBank_holder : (s.updBank k f).holder = s.holder := rfl
@[simp] theorem State.updBank_idle : (s.updBank k f).idle = s.idle := rfl

end

section

variable (f : BankController → BankController)

@[simp] theorem State.updBc_pending : (s.updBc f).pending = s.pending := rfl
@[simp] theorem State.updBc_choice : (s.updBc f).choice = s.choice := rfl
@[simp] theorem State.updBc_phase : (s.updBc f).phase = s.phase := rfl
@[simp] theorem State.updBc_resetPin : (s.updBc f).resetPin = s.resetPin := rfl
@[simp] theorem State.updBc_straps : (s.updBc f).straps = s.straps := rfl
@[simp] theorem State.updBc_settings : (s.updBc f).settings = s.settings := rfl
@[simp] theorem State.updBc_upi : (s.updBc f).upi = s.upi := rfl
@[simp] theorem State.updBc_session : (s.updBc f).session = s.session := rfl
@[simp] theorem State.updBc_seg : (s.updBc f).seg = s.seg := rfl
@[simp] theorem State.updBc_segCounters : (s.updBc f).segCounters = s.segCounters := rfl
@[simp] theorem State.updBc_bank : (s.updBc f).bank = s.bank := rfl
@[simp] theorem State.updBc_bc : (s.updBc f).bc = f s.bc := rfl
@[simp] theorem State.updBc_accounts : (s.updBc f).accounts = s.accounts := rfl
@[simp] theorem State.updBc_portCounters : (s.updBc f).portCounters = s.portCounters := rfl
@[simp] theorem State.updBc_refill : (s.updBc f).refill = s.refill := rfl
@[simp] theorem State.updBc_queue : (s.updBc f).queue = s.queue := rfl
@[simp] theorem State.updBc_flags : (s.updBc f).flags = s.flags := rfl
@[simp] theorem State.updBc_alert : (s.updBc f).alert = s.alert := rfl
@[simp] theorem State.updBc_parser : (s.updBc f).parser = s.parser := rfl
@[simp] theorem State.updBc_slot : (s.updBc f).slot = s.slot := rfl
@[simp] theorem State.updBc_readback : (s.updBc f).readback = s.readback := rfl
@[simp] theorem State.updBc_job : (s.updBc f).job = s.job := rfl
@[simp] theorem State.updBc_holder : (s.updBc f).holder = s.holder := rfl
@[simp] theorem State.updBc_idle : (s.updBc f).idle = s.idle := rfl

end

section

variable (k : BankId) (t : Vector EntryAccount 128)

@[simp] theorem State.setAccounts_pending : (s.setAccounts k t).pending = s.pending := rfl
@[simp] theorem State.setAccounts_choice : (s.setAccounts k t).choice = s.choice := rfl
@[simp] theorem State.setAccounts_phase : (s.setAccounts k t).phase = s.phase := rfl
@[simp] theorem State.setAccounts_resetPin : (s.setAccounts k t).resetPin = s.resetPin := rfl
@[simp] theorem State.setAccounts_straps : (s.setAccounts k t).straps = s.straps := rfl
@[simp] theorem State.setAccounts_settings : (s.setAccounts k t).settings = s.settings := rfl
@[simp] theorem State.setAccounts_upi : (s.setAccounts k t).upi = s.upi := rfl
@[simp] theorem State.setAccounts_session : (s.setAccounts k t).session = s.session := rfl
@[simp] theorem State.setAccounts_seg : (s.setAccounts k t).seg = s.seg := rfl
@[simp] theorem State.setAccounts_segCounters : (s.setAccounts k t).segCounters = s.segCounters := rfl
@[simp] theorem State.setAccounts_bank : (s.setAccounts k t).bank = s.bank := rfl
@[simp] theorem State.setAccounts_bc : (s.setAccounts k t).bc = s.bc := rfl
@[simp] theorem State.setAccounts_accounts : (s.setAccounts k t).accounts = s.accounts.set k t := rfl
@[simp] theorem State.setAccounts_portCounters : (s.setAccounts k t).portCounters = s.portCounters := rfl
@[simp] theorem State.setAccounts_refill : (s.setAccounts k t).refill = s.refill := rfl
@[simp] theorem State.setAccounts_queue : (s.setAccounts k t).queue = s.queue := rfl
@[simp] theorem State.setAccounts_flags : (s.setAccounts k t).flags = s.flags := rfl
@[simp] theorem State.setAccounts_alert : (s.setAccounts k t).alert = s.alert := rfl
@[simp] theorem State.setAccounts_parser : (s.setAccounts k t).parser = s.parser := rfl
@[simp] theorem State.setAccounts_slot : (s.setAccounts k t).slot = s.slot := rfl
@[simp] theorem State.setAccounts_readback : (s.setAccounts k t).readback = s.readback := rfl
@[simp] theorem State.setAccounts_job : (s.setAccounts k t).job = s.job := rfl
@[simp] theorem State.setAccounts_holder : (s.setAccounts k t).holder = s.holder := rfl
@[simp] theorem State.setAccounts_idle : (s.setAccounts k t).idle = s.idle := rfl

end

section

variable (k : BankId) (i : EntryIdx) (f : EntryAccount → EntryAccount)

@[simp] theorem State.updAccount_pending : (s.updAccount k i f).pending = s.pending := rfl
@[simp] theorem State.updAccount_choice : (s.updAccount k i f).choice = s.choice := rfl
@[simp] theorem State.updAccount_phase : (s.updAccount k i f).phase = s.phase := rfl
@[simp] theorem State.updAccount_resetPin : (s.updAccount k i f).resetPin = s.resetPin := rfl
@[simp] theorem State.updAccount_straps : (s.updAccount k i f).straps = s.straps := rfl
@[simp] theorem State.updAccount_settings : (s.updAccount k i f).settings = s.settings := rfl
@[simp] theorem State.updAccount_upi : (s.updAccount k i f).upi = s.upi := rfl
@[simp] theorem State.updAccount_session : (s.updAccount k i f).session = s.session := rfl
@[simp] theorem State.updAccount_seg : (s.updAccount k i f).seg = s.seg := rfl
@[simp] theorem State.updAccount_segCounters : (s.updAccount k i f).segCounters = s.segCounters := rfl
@[simp] theorem State.updAccount_bank : (s.updAccount k i f).bank = s.bank := rfl
@[simp] theorem State.updAccount_bc : (s.updAccount k i f).bc = s.bc := rfl
@[simp] theorem State.updAccount_accounts : (s.updAccount k i f).accounts =
    s.accounts.set k (tableSet (s.accounts.get k) i (f (tableGet (s.accounts.get k) i))) := rfl
@[simp] theorem State.updAccount_portCounters : (s.updAccount k i f).portCounters = s.portCounters := rfl
@[simp] theorem State.updAccount_refill : (s.updAccount k i f).refill = s.refill := rfl
@[simp] theorem State.updAccount_queue : (s.updAccount k i f).queue = s.queue := rfl
@[simp] theorem State.updAccount_flags : (s.updAccount k i f).flags = s.flags := rfl
@[simp] theorem State.updAccount_alert : (s.updAccount k i f).alert = s.alert := rfl
@[simp] theorem State.updAccount_parser : (s.updAccount k i f).parser = s.parser := rfl
@[simp] theorem State.updAccount_slot : (s.updAccount k i f).slot = s.slot := rfl
@[simp] theorem State.updAccount_readback : (s.updAccount k i f).readback = s.readback := rfl
@[simp] theorem State.updAccount_job : (s.updAccount k i f).job = s.job := rfl
@[simp] theorem State.updAccount_holder : (s.updAccount k i f).holder = s.holder := rfl
@[simp] theorem State.updAccount_idle : (s.updAccount k i f).idle = s.idle := rfl

end

section

variable (p : Port) (f : PortCounters → PortCounters)

@[simp] theorem State.updPortCounters_pending : (s.updPortCounters p f).pending = s.pending := rfl
@[simp] theorem State.updPortCounters_choice : (s.updPortCounters p f).choice = s.choice := rfl
@[simp] theorem State.updPortCounters_phase : (s.updPortCounters p f).phase = s.phase := rfl
@[simp] theorem State.updPortCounters_resetPin : (s.updPortCounters p f).resetPin = s.resetPin := rfl
@[simp] theorem State.updPortCounters_straps : (s.updPortCounters p f).straps = s.straps := rfl
@[simp] theorem State.updPortCounters_settings : (s.updPortCounters p f).settings = s.settings := rfl
@[simp] theorem State.updPortCounters_upi : (s.updPortCounters p f).upi = s.upi := rfl
@[simp] theorem State.updPortCounters_session : (s.updPortCounters p f).session = s.session := rfl
@[simp] theorem State.updPortCounters_seg : (s.updPortCounters p f).seg = s.seg := rfl
@[simp] theorem State.updPortCounters_segCounters : (s.updPortCounters p f).segCounters = s.segCounters := rfl
@[simp] theorem State.updPortCounters_bank : (s.updPortCounters p f).bank = s.bank := rfl
@[simp] theorem State.updPortCounters_bc : (s.updPortCounters p f).bc = s.bc := rfl
@[simp] theorem State.updPortCounters_accounts : (s.updPortCounters p f).accounts = s.accounts := rfl
@[simp] theorem State.updPortCounters_portCounters : (s.updPortCounters p f).portCounters =
    s.portCounters.set p (f (s.portCounters.get p)) := rfl
@[simp] theorem State.updPortCounters_refill : (s.updPortCounters p f).refill = s.refill := rfl
@[simp] theorem State.updPortCounters_queue : (s.updPortCounters p f).queue = s.queue := rfl
@[simp] theorem State.updPortCounters_flags : (s.updPortCounters p f).flags = s.flags := rfl
@[simp] theorem State.updPortCounters_alert : (s.updPortCounters p f).alert = s.alert := rfl
@[simp] theorem State.updPortCounters_parser : (s.updPortCounters p f).parser = s.parser := rfl
@[simp] theorem State.updPortCounters_slot : (s.updPortCounters p f).slot = s.slot := rfl
@[simp] theorem State.updPortCounters_readback : (s.updPortCounters p f).readback = s.readback := rfl
@[simp] theorem State.updPortCounters_job : (s.updPortCounters p f).job = s.job := rfl
@[simp] theorem State.updPortCounters_holder : (s.updPortCounters p f).holder = s.holder := rfl
@[simp] theorem State.updPortCounters_idle : (s.updPortCounters p f).idle = s.idle := rfl

end

section

variable (t : Option Half)

@[simp] theorem State.setRefill_pending : (s.setRefill t).pending = s.pending := rfl
@[simp] theorem State.setRefill_choice : (s.setRefill t).choice = s.choice := rfl
@[simp] theorem State.setRefill_phase : (s.setRefill t).phase = s.phase := rfl
@[simp] theorem State.setRefill_resetPin : (s.setRefill t).resetPin = s.resetPin := rfl
@[simp] theorem State.setRefill_straps : (s.setRefill t).straps = s.straps := rfl
@[simp] theorem State.setRefill_settings : (s.setRefill t).settings = s.settings := rfl
@[simp] theorem State.setRefill_upi : (s.setRefill t).upi = s.upi := rfl
@[simp] theorem State.setRefill_session : (s.setRefill t).session = s.session := rfl
@[simp] theorem State.setRefill_seg : (s.setRefill t).seg = s.seg := rfl
@[simp] theorem State.setRefill_segCounters : (s.setRefill t).segCounters = s.segCounters := rfl
@[simp] theorem State.setRefill_bank : (s.setRefill t).bank = s.bank := rfl
@[simp] theorem State.setRefill_bc : (s.setRefill t).bc = s.bc := rfl
@[simp] theorem State.setRefill_accounts : (s.setRefill t).accounts = s.accounts := rfl
@[simp] theorem State.setRefill_portCounters : (s.setRefill t).portCounters = s.portCounters := rfl
@[simp] theorem State.setRefill_refill : (s.setRefill t).refill = t := rfl
@[simp] theorem State.setRefill_queue : (s.setRefill t).queue = s.queue := rfl
@[simp] theorem State.setRefill_flags : (s.setRefill t).flags = s.flags := rfl
@[simp] theorem State.setRefill_alert : (s.setRefill t).alert = s.alert := rfl
@[simp] theorem State.setRefill_parser : (s.setRefill t).parser = s.parser := rfl
@[simp] theorem State.setRefill_slot : (s.setRefill t).slot = s.slot := rfl
@[simp] theorem State.setRefill_readback : (s.setRefill t).readback = s.readback := rfl
@[simp] theorem State.setRefill_job : (s.setRefill t).job = s.job := rfl
@[simp] theorem State.setRefill_holder : (s.setRefill t).holder = s.holder := rfl
@[simp] theorem State.setRefill_idle : (s.setRefill t).idle = s.idle := rfl

end

section

variable (q : ViolationQueue)

@[simp] theorem State.setQueue_pending : (s.setQueue q).pending = s.pending := rfl
@[simp] theorem State.setQueue_choice : (s.setQueue q).choice = s.choice := rfl
@[simp] theorem State.setQueue_phase : (s.setQueue q).phase = s.phase := rfl
@[simp] theorem State.setQueue_resetPin : (s.setQueue q).resetPin = s.resetPin := rfl
@[simp] theorem State.setQueue_straps : (s.setQueue q).straps = s.straps := rfl
@[simp] theorem State.setQueue_settings : (s.setQueue q).settings = s.settings := rfl
@[simp] theorem State.setQueue_upi : (s.setQueue q).upi = s.upi := rfl
@[simp] theorem State.setQueue_session : (s.setQueue q).session = s.session := rfl
@[simp] theorem State.setQueue_seg : (s.setQueue q).seg = s.seg := rfl
@[simp] theorem State.setQueue_segCounters : (s.setQueue q).segCounters = s.segCounters := rfl
@[simp] theorem State.setQueue_bank : (s.setQueue q).bank = s.bank := rfl
@[simp] theorem State.setQueue_bc : (s.setQueue q).bc = s.bc := rfl
@[simp] theorem State.setQueue_accounts : (s.setQueue q).accounts = s.accounts := rfl
@[simp] theorem State.setQueue_portCounters : (s.setQueue q).portCounters = s.portCounters := rfl
@[simp] theorem State.setQueue_refill : (s.setQueue q).refill = s.refill := rfl
@[simp] theorem State.setQueue_queue : (s.setQueue q).queue = q := rfl
@[simp] theorem State.setQueue_flags : (s.setQueue q).flags = s.flags := rfl
@[simp] theorem State.setQueue_alert : (s.setQueue q).alert = s.alert := rfl
@[simp] theorem State.setQueue_parser : (s.setQueue q).parser = s.parser := rfl
@[simp] theorem State.setQueue_slot : (s.setQueue q).slot = s.slot := rfl
@[simp] theorem State.setQueue_readback : (s.setQueue q).readback = s.readback := rfl
@[simp] theorem State.setQueue_job : (s.setQueue q).job = s.job := rfl
@[simp] theorem State.setQueue_holder : (s.setQueue q).holder = s.holder := rfl
@[simp] theorem State.setQueue_idle : (s.setQueue q).idle = s.idle := rfl

end

section

variable (p : Port) (f : AlertFlags → AlertFlags)

@[simp] theorem State.updFlags_pending : (s.updFlags p f).pending = s.pending := rfl
@[simp] theorem State.updFlags_choice : (s.updFlags p f).choice = s.choice := rfl
@[simp] theorem State.updFlags_phase : (s.updFlags p f).phase = s.phase := rfl
@[simp] theorem State.updFlags_resetPin : (s.updFlags p f).resetPin = s.resetPin := rfl
@[simp] theorem State.updFlags_straps : (s.updFlags p f).straps = s.straps := rfl
@[simp] theorem State.updFlags_settings : (s.updFlags p f).settings = s.settings := rfl
@[simp] theorem State.updFlags_upi : (s.updFlags p f).upi = s.upi := rfl
@[simp] theorem State.updFlags_session : (s.updFlags p f).session = s.session := rfl
@[simp] theorem State.updFlags_seg : (s.updFlags p f).seg = s.seg := rfl
@[simp] theorem State.updFlags_segCounters : (s.updFlags p f).segCounters = s.segCounters := rfl
@[simp] theorem State.updFlags_bank : (s.updFlags p f).bank = s.bank := rfl
@[simp] theorem State.updFlags_bc : (s.updFlags p f).bc = s.bc := rfl
@[simp] theorem State.updFlags_accounts : (s.updFlags p f).accounts = s.accounts := rfl
@[simp] theorem State.updFlags_portCounters : (s.updFlags p f).portCounters = s.portCounters := rfl
@[simp] theorem State.updFlags_refill : (s.updFlags p f).refill = s.refill := rfl
@[simp] theorem State.updFlags_queue : (s.updFlags p f).queue = s.queue := rfl
@[simp] theorem State.updFlags_flags : (s.updFlags p f).flags = s.flags.set p (f (s.flags.get p)) := rfl
@[simp] theorem State.updFlags_alert : (s.updFlags p f).alert = s.alert := rfl
@[simp] theorem State.updFlags_parser : (s.updFlags p f).parser = s.parser := rfl
@[simp] theorem State.updFlags_slot : (s.updFlags p f).slot = s.slot := rfl
@[simp] theorem State.updFlags_readback : (s.updFlags p f).readback = s.readback := rfl
@[simp] theorem State.updFlags_job : (s.updFlags p f).job = s.job := rfl
@[simp] theorem State.updFlags_holder : (s.updFlags p f).holder = s.holder := rfl
@[simp] theorem State.updFlags_idle : (s.updFlags p f).idle = s.idle := rfl

end

section

variable (p : Port) (l : Level)

@[simp] theorem State.setAlert_pending : (s.setAlert p l).pending = s.pending := rfl
@[simp] theorem State.setAlert_choice : (s.setAlert p l).choice = s.choice := rfl
@[simp] theorem State.setAlert_phase : (s.setAlert p l).phase = s.phase := rfl
@[simp] theorem State.setAlert_resetPin : (s.setAlert p l).resetPin = s.resetPin := rfl
@[simp] theorem State.setAlert_straps : (s.setAlert p l).straps = s.straps := rfl
@[simp] theorem State.setAlert_settings : (s.setAlert p l).settings = s.settings := rfl
@[simp] theorem State.setAlert_upi : (s.setAlert p l).upi = s.upi := rfl
@[simp] theorem State.setAlert_session : (s.setAlert p l).session = s.session := rfl
@[simp] theorem State.setAlert_seg : (s.setAlert p l).seg = s.seg := rfl
@[simp] theorem State.setAlert_segCounters : (s.setAlert p l).segCounters = s.segCounters := rfl
@[simp] theorem State.setAlert_bank : (s.setAlert p l).bank = s.bank := rfl
@[simp] theorem State.setAlert_bc : (s.setAlert p l).bc = s.bc := rfl
@[simp] theorem State.setAlert_accounts : (s.setAlert p l).accounts = s.accounts := rfl
@[simp] theorem State.setAlert_portCounters : (s.setAlert p l).portCounters = s.portCounters := rfl
@[simp] theorem State.setAlert_refill : (s.setAlert p l).refill = s.refill := rfl
@[simp] theorem State.setAlert_queue : (s.setAlert p l).queue = s.queue := rfl
@[simp] theorem State.setAlert_flags : (s.setAlert p l).flags = s.flags := rfl
@[simp] theorem State.setAlert_alert : (s.setAlert p l).alert = s.alert.set p l := rfl
@[simp] theorem State.setAlert_parser : (s.setAlert p l).parser = s.parser := rfl
@[simp] theorem State.setAlert_slot : (s.setAlert p l).slot = s.slot := rfl
@[simp] theorem State.setAlert_readback : (s.setAlert p l).readback = s.readback := rfl
@[simp] theorem State.setAlert_job : (s.setAlert p l).job = s.job := rfl
@[simp] theorem State.setAlert_holder : (s.setAlert p l).holder = s.holder := rfl
@[simp] theorem State.setAlert_idle : (s.setAlert p l).idle = s.idle := rfl

end

section

variable (p : Port) (f : Parser → Parser)

@[simp] theorem State.updParser_pending : (s.updParser p f).pending = s.pending := rfl
@[simp] theorem State.updParser_choice : (s.updParser p f).choice = s.choice := rfl
@[simp] theorem State.updParser_phase : (s.updParser p f).phase = s.phase := rfl
@[simp] theorem State.updParser_resetPin : (s.updParser p f).resetPin = s.resetPin := rfl
@[simp] theorem State.updParser_straps : (s.updParser p f).straps = s.straps := rfl
@[simp] theorem State.updParser_settings : (s.updParser p f).settings = s.settings := rfl
@[simp] theorem State.updParser_upi : (s.updParser p f).upi = s.upi := rfl
@[simp] theorem State.updParser_session : (s.updParser p f).session = s.session := rfl
@[simp] theorem State.updParser_seg : (s.updParser p f).seg = s.seg := rfl
@[simp] theorem State.updParser_segCounters : (s.updParser p f).segCounters = s.segCounters := rfl
@[simp] theorem State.updParser_bank : (s.updParser p f).bank = s.bank := rfl
@[simp] theorem State.updParser_bc : (s.updParser p f).bc = s.bc := rfl
@[simp] theorem State.updParser_accounts : (s.updParser p f).accounts = s.accounts := rfl
@[simp] theorem State.updParser_portCounters : (s.updParser p f).portCounters = s.portCounters := rfl
@[simp] theorem State.updParser_refill : (s.updParser p f).refill = s.refill := rfl
@[simp] theorem State.updParser_queue : (s.updParser p f).queue = s.queue := rfl
@[simp] theorem State.updParser_flags : (s.updParser p f).flags = s.flags := rfl
@[simp] theorem State.updParser_alert : (s.updParser p f).alert = s.alert := rfl
@[simp] theorem State.updParser_parser : (s.updParser p f).parser = s.parser.set p (f (s.parser.get p)) := rfl
@[simp] theorem State.updParser_slot : (s.updParser p f).slot = s.slot := rfl
@[simp] theorem State.updParser_readback : (s.updParser p f).readback = s.readback := rfl
@[simp] theorem State.updParser_job : (s.updParser p f).job = s.job := rfl
@[simp] theorem State.updParser_holder : (s.updParser p f).holder = s.holder := rfl
@[simp] theorem State.updParser_idle : (s.updParser p f).idle = s.idle := rfl

end

section

variable (p : Port) (t : Slot)

@[simp] theorem State.setSlot_pending : (s.setSlot p t).pending = s.pending := rfl
@[simp] theorem State.setSlot_choice : (s.setSlot p t).choice = s.choice := rfl
@[simp] theorem State.setSlot_phase : (s.setSlot p t).phase = s.phase := rfl
@[simp] theorem State.setSlot_resetPin : (s.setSlot p t).resetPin = s.resetPin := rfl
@[simp] theorem State.setSlot_straps : (s.setSlot p t).straps = s.straps := rfl
@[simp] theorem State.setSlot_settings : (s.setSlot p t).settings = s.settings := rfl
@[simp] theorem State.setSlot_upi : (s.setSlot p t).upi = s.upi := rfl
@[simp] theorem State.setSlot_session : (s.setSlot p t).session = s.session := rfl
@[simp] theorem State.setSlot_seg : (s.setSlot p t).seg = s.seg := rfl
@[simp] theorem State.setSlot_segCounters : (s.setSlot p t).segCounters = s.segCounters := rfl
@[simp] theorem State.setSlot_bank : (s.setSlot p t).bank = s.bank := rfl
@[simp] theorem State.setSlot_bc : (s.setSlot p t).bc = s.bc := rfl
@[simp] theorem State.setSlot_accounts : (s.setSlot p t).accounts = s.accounts := rfl
@[simp] theorem State.setSlot_portCounters : (s.setSlot p t).portCounters = s.portCounters := rfl
@[simp] theorem State.setSlot_refill : (s.setSlot p t).refill = s.refill := rfl
@[simp] theorem State.setSlot_queue : (s.setSlot p t).queue = s.queue := rfl
@[simp] theorem State.setSlot_flags : (s.setSlot p t).flags = s.flags := rfl
@[simp] theorem State.setSlot_alert : (s.setSlot p t).alert = s.alert := rfl
@[simp] theorem State.setSlot_parser : (s.setSlot p t).parser = s.parser := rfl
@[simp] theorem State.setSlot_slot : (s.setSlot p t).slot = s.slot.set p t := rfl
@[simp] theorem State.setSlot_readback : (s.setSlot p t).readback = s.readback := rfl
@[simp] theorem State.setSlot_job : (s.setSlot p t).job = s.job := rfl
@[simp] theorem State.setSlot_holder : (s.setSlot p t).holder = s.holder := rfl
@[simp] theorem State.setSlot_idle : (s.setSlot p t).idle = s.idle := rfl

end

section

variable (p : Port) (l : List Byte)

@[simp] theorem State.setReadback_pending : (s.setReadback p l).pending = s.pending := rfl
@[simp] theorem State.setReadback_choice : (s.setReadback p l).choice = s.choice := rfl
@[simp] theorem State.setReadback_phase : (s.setReadback p l).phase = s.phase := rfl
@[simp] theorem State.setReadback_resetPin : (s.setReadback p l).resetPin = s.resetPin := rfl
@[simp] theorem State.setReadback_straps : (s.setReadback p l).straps = s.straps := rfl
@[simp] theorem State.setReadback_settings : (s.setReadback p l).settings = s.settings := rfl
@[simp] theorem State.setReadback_upi : (s.setReadback p l).upi = s.upi := rfl
@[simp] theorem State.setReadback_session : (s.setReadback p l).session = s.session := rfl
@[simp] theorem State.setReadback_seg : (s.setReadback p l).seg = s.seg := rfl
@[simp] theorem State.setReadback_segCounters : (s.setReadback p l).segCounters = s.segCounters := rfl
@[simp] theorem State.setReadback_bank : (s.setReadback p l).bank = s.bank := rfl
@[simp] theorem State.setReadback_bc : (s.setReadback p l).bc = s.bc := rfl
@[simp] theorem State.setReadback_accounts : (s.setReadback p l).accounts = s.accounts := rfl
@[simp] theorem State.setReadback_portCounters : (s.setReadback p l).portCounters = s.portCounters := rfl
@[simp] theorem State.setReadback_refill : (s.setReadback p l).refill = s.refill := rfl
@[simp] theorem State.setReadback_queue : (s.setReadback p l).queue = s.queue := rfl
@[simp] theorem State.setReadback_flags : (s.setReadback p l).flags = s.flags := rfl
@[simp] theorem State.setReadback_alert : (s.setReadback p l).alert = s.alert := rfl
@[simp] theorem State.setReadback_parser : (s.setReadback p l).parser = s.parser := rfl
@[simp] theorem State.setReadback_slot : (s.setReadback p l).slot = s.slot := rfl
@[simp] theorem State.setReadback_readback : (s.setReadback p l).readback = s.readback.set p l := rfl
@[simp] theorem State.setReadback_job : (s.setReadback p l).job = s.job := rfl
@[simp] theorem State.setReadback_holder : (s.setReadback p l).holder = s.holder := rfl
@[simp] theorem State.setReadback_idle : (s.setReadback p l).idle = s.idle := rfl

end

section

variable (p : Port) (j : Option LongCommand)

@[simp] theorem State.setJob_pending : (s.setJob p j).pending = s.pending := rfl
@[simp] theorem State.setJob_choice : (s.setJob p j).choice = s.choice := rfl
@[simp] theorem State.setJob_phase : (s.setJob p j).phase = s.phase := rfl
@[simp] theorem State.setJob_resetPin : (s.setJob p j).resetPin = s.resetPin := rfl
@[simp] theorem State.setJob_straps : (s.setJob p j).straps = s.straps := rfl
@[simp] theorem State.setJob_settings : (s.setJob p j).settings = s.settings := rfl
@[simp] theorem State.setJob_upi : (s.setJob p j).upi = s.upi := rfl
@[simp] theorem State.setJob_session : (s.setJob p j).session = s.session := rfl
@[simp] theorem State.setJob_seg : (s.setJob p j).seg = s.seg := rfl
@[simp] theorem State.setJob_segCounters : (s.setJob p j).segCounters = s.segCounters := rfl
@[simp] theorem State.setJob_bank : (s.setJob p j).bank = s.bank := rfl
@[simp] theorem State.setJob_bc : (s.setJob p j).bc = s.bc := rfl
@[simp] theorem State.setJob_accounts : (s.setJob p j).accounts = s.accounts := rfl
@[simp] theorem State.setJob_portCounters : (s.setJob p j).portCounters = s.portCounters := rfl
@[simp] theorem State.setJob_refill : (s.setJob p j).refill = s.refill := rfl
@[simp] theorem State.setJob_queue : (s.setJob p j).queue = s.queue := rfl
@[simp] theorem State.setJob_flags : (s.setJob p j).flags = s.flags := rfl
@[simp] theorem State.setJob_alert : (s.setJob p j).alert = s.alert := rfl
@[simp] theorem State.setJob_parser : (s.setJob p j).parser = s.parser := rfl
@[simp] theorem State.setJob_slot : (s.setJob p j).slot = s.slot := rfl
@[simp] theorem State.setJob_readback : (s.setJob p j).readback = s.readback := rfl
@[simp] theorem State.setJob_job : (s.setJob p j).job = s.job.set p j := rfl
@[simp] theorem State.setJob_holder : (s.setJob p j).holder = s.holder := rfl
@[simp] theorem State.setJob_idle : (s.setJob p j).idle = s.idle := rfl

end

section

variable (h : Option Port)

@[simp] theorem State.setHolder_pending : (s.setHolder h).pending = s.pending := rfl
@[simp] theorem State.setHolder_choice : (s.setHolder h).choice = s.choice := rfl
@[simp] theorem State.setHolder_phase : (s.setHolder h).phase = s.phase := rfl
@[simp] theorem State.setHolder_resetPin : (s.setHolder h).resetPin = s.resetPin := rfl
@[simp] theorem State.setHolder_straps : (s.setHolder h).straps = s.straps := rfl
@[simp] theorem State.setHolder_settings : (s.setHolder h).settings = s.settings := rfl
@[simp] theorem State.setHolder_upi : (s.setHolder h).upi = s.upi := rfl
@[simp] theorem State.setHolder_session : (s.setHolder h).session = s.session := rfl
@[simp] theorem State.setHolder_seg : (s.setHolder h).seg = s.seg := rfl
@[simp] theorem State.setHolder_segCounters : (s.setHolder h).segCounters = s.segCounters := rfl
@[simp] theorem State.setHolder_bank : (s.setHolder h).bank = s.bank := rfl
@[simp] theorem State.setHolder_bc : (s.setHolder h).bc = s.bc := rfl
@[simp] theorem State.setHolder_accounts : (s.setHolder h).accounts = s.accounts := rfl
@[simp] theorem State.setHolder_portCounters : (s.setHolder h).portCounters = s.portCounters := rfl
@[simp] theorem State.setHolder_refill : (s.setHolder h).refill = s.refill := rfl
@[simp] theorem State.setHolder_queue : (s.setHolder h).queue = s.queue := rfl
@[simp] theorem State.setHolder_flags : (s.setHolder h).flags = s.flags := rfl
@[simp] theorem State.setHolder_alert : (s.setHolder h).alert = s.alert := rfl
@[simp] theorem State.setHolder_parser : (s.setHolder h).parser = s.parser := rfl
@[simp] theorem State.setHolder_slot : (s.setHolder h).slot = s.slot := rfl
@[simp] theorem State.setHolder_readback : (s.setHolder h).readback = s.readback := rfl
@[simp] theorem State.setHolder_job : (s.setHolder h).job = s.job := rfl
@[simp] theorem State.setHolder_holder : (s.setHolder h).holder = h := rfl
@[simp] theorem State.setHolder_idle : (s.setHolder h).idle = s.idle := rfl

end

section

variable (t : Option Byte)

@[simp] theorem State.setIdle_pending : (s.setIdle t).pending = s.pending := rfl
@[simp] theorem State.setIdle_choice : (s.setIdle t).choice = s.choice := rfl
@[simp] theorem State.setIdle_phase : (s.setIdle t).phase = s.phase := rfl
@[simp] theorem State.setIdle_resetPin : (s.setIdle t).resetPin = s.resetPin := rfl
@[simp] theorem State.setIdle_straps : (s.setIdle t).straps = s.straps := rfl
@[simp] theorem State.setIdle_settings : (s.setIdle t).settings = s.settings := rfl
@[simp] theorem State.setIdle_upi : (s.setIdle t).upi = s.upi := rfl
@[simp] theorem State.setIdle_session : (s.setIdle t).session = s.session := rfl
@[simp] theorem State.setIdle_seg : (s.setIdle t).seg = s.seg := rfl
@[simp] theorem State.setIdle_segCounters : (s.setIdle t).segCounters = s.segCounters := rfl
@[simp] theorem State.setIdle_bank : (s.setIdle t).bank = s.bank := rfl
@[simp] theorem State.setIdle_bc : (s.setIdle t).bc = s.bc := rfl
@[simp] theorem State.setIdle_accounts : (s.setIdle t).accounts = s.accounts := rfl
@[simp] theorem State.setIdle_portCounters : (s.setIdle t).portCounters = s.portCounters := rfl
@[simp] theorem State.setIdle_refill : (s.setIdle t).refill = s.refill := rfl
@[simp] theorem State.setIdle_queue : (s.setIdle t).queue = s.queue := rfl
@[simp] theorem State.setIdle_flags : (s.setIdle t).flags = s.flags := rfl
@[simp] theorem State.setIdle_alert : (s.setIdle t).alert = s.alert := rfl
@[simp] theorem State.setIdle_parser : (s.setIdle t).parser = s.parser := rfl
@[simp] theorem State.setIdle_slot : (s.setIdle t).slot = s.slot := rfl
@[simp] theorem State.setIdle_readback : (s.setIdle t).readback = s.readback := rfl
@[simp] theorem State.setIdle_job : (s.setIdle t).job = s.job := rfl
@[simp] theorem State.setIdle_holder : (s.setIdle t).holder = s.holder := rfl
@[simp] theorem State.setIdle_idle : (s.setIdle t).idle = t := rfl

end

section

variable (r : Settings)

@[simp] theorem State.setSettings_pending : (s.setSettings r).pending = s.pending := rfl
@[simp] theorem State.setSettings_choice : (s.setSettings r).choice = s.choice := rfl
@[simp] theorem State.setSettings_phase : (s.setSettings r).phase = s.phase := rfl
@[simp] theorem State.setSettings_resetPin : (s.setSettings r).resetPin = s.resetPin := rfl
@[simp] theorem State.setSettings_straps : (s.setSettings r).straps = s.straps := rfl
@[simp] theorem State.setSettings_settings : (s.setSettings r).settings = r := rfl
@[simp] theorem State.setSettings_upi : (s.setSettings r).upi = s.upi := rfl
@[simp] theorem State.setSettings_session : (s.setSettings r).session = s.session := rfl
@[simp] theorem State.setSettings_seg : (s.setSettings r).seg = s.seg := rfl
@[simp] theorem State.setSettings_segCounters : (s.setSettings r).segCounters = s.segCounters := rfl
@[simp] theorem State.setSettings_bank : (s.setSettings r).bank = s.bank := rfl
@[simp] theorem State.setSettings_bc : (s.setSettings r).bc = s.bc := rfl
@[simp] theorem State.setSettings_accounts : (s.setSettings r).accounts = s.accounts := rfl
@[simp] theorem State.setSettings_portCounters : (s.setSettings r).portCounters = s.portCounters := rfl
@[simp] theorem State.setSettings_refill : (s.setSettings r).refill = s.refill := rfl
@[simp] theorem State.setSettings_queue : (s.setSettings r).queue = s.queue := rfl
@[simp] theorem State.setSettings_flags : (s.setSettings r).flags = s.flags := rfl
@[simp] theorem State.setSettings_alert : (s.setSettings r).alert = s.alert := rfl
@[simp] theorem State.setSettings_parser : (s.setSettings r).parser = s.parser := rfl
@[simp] theorem State.setSettings_slot : (s.setSettings r).slot = s.slot := rfl
@[simp] theorem State.setSettings_readback : (s.setSettings r).readback = s.readback := rfl
@[simp] theorem State.setSettings_job : (s.setSettings r).job = s.job := rfl
@[simp] theorem State.setSettings_holder : (s.setSettings r).holder = s.holder := rfl
@[simp] theorem State.setSettings_idle : (s.setSettings r).idle = s.idle := rfl

end

end Sys2Proof.Machine
end

