-- ==== Sys2Proof/Laws/Records.lean ====
section
/-!
SUPPORT. What an append and a record change: the queue, the latched flags and the alert lines, and the record-made flag of
the part; everything else is as before.
-/

namespace Sys2Proof.Machine

/-- An append changes the queue, the flags and the alert lines alone (R149, R150). -/
theorem appendViolation_eq (v : Violation) (s : State) :
    ∃ f a, appendViolation v s = { s with queue := queueAfter s.queue v, flags := f, alert := a } := by
  unfold appendViolation queueAfter Config.queueCapacity
  split
  · exact ⟨s.flags, _, rfl⟩
  · exact ⟨_, _, rfl⟩

/-- A record changes the queue, the flags, the alert lines and the record-made flag alone (R26, R92). -/
theorem makeRecord_eq (p : Port) (r : Reason) (o : RecordOutcome) (x : Option Half) (s : State) :
    ∃ f a, makeRecord p r o x s =
      { s with
        queue := s.queueWith p r o x, flags := f, alert := a,
        session := s.session.set p { s.session.get p with part := { s.part p with recorded := true } } } := by
  unfold makeRecord State.queueWith
  split
  · rename_i h
    refine ⟨s.flags, s.alert, ?_⟩
    have e : s.session.set p { s.session.get p with part := { s.part p with recorded := true } } = s.session := by
      have h' : (s.session.get p).part.recorded = true := h
      unfold State.part
      rw [← h']
      exact PerPort.set_get _ _
    rw [e]
  · obtain ⟨f, a, h⟩ := appendViolation_eq (s.violationOf p r o x) s
    rw [h]
    exact ⟨f, a, rfl⟩

/-- The record of a part rests on the part, the queue and the bank it is judged by. -/
theorem queueWith_congr (p : Port) (r : Reason) (o : RecordOutcome) (x : Option Half) (s t : State)
    (h1 : t.part p = s.part p) (h2 : t.queue = s.queue) (h3 : t.judged p = s.judged p) :
    t.queueWith p r o x = s.queueWith p r o x := by
  unfold State.queueWith State.violationOf
  rw [h1, h2, h3]

/-- What the line does in DISCARD, by the direction of the part (R44). -/
theorem discard_line (d : Direction) (f : Byte) :
    (d = .read → answerPhase d = .send ∧ discardShift f d = some f) ∧
      (d = .write → answerPhase d = .receive ∧ discardShift f d = none) := by
  cases d <;> simp [answerPhase, discardShift]

/-- A refusal at the address: the record, NACK, DISCARD, any hold ended (R29, R30). -/
theorem refuseAddress_eq (p : Port) (r : Reason) (x : Option Half) (s : State) :
    ∃ f a, refuseAddress p r x s =
      { s with
        queue := s.queueWith p r .refused x, flags := f, alert := a,
        upi := s.upi.set p
          { s.upi.get p with
            hold := false, ninth := some .nack, phase := answerPhase (s.part p).direction,
            shift := discardShift s.settings.filler (s.part p).direction },
        session := s.session.set p
          { s.session.get p with
            state := .discard, wait := none,
            stretch := if (s.upi.get p).hold = true then none else (s.session.get p).stretch,
            abandon := if (s.upi.get p).hold = true then some (s.limits p).abandon else (s.session.get p).abandon,
            part := { s.part p with recorded := true, held := none, decision := some (.refused r) } } } := by
  obtain ⟨f, a, h⟩ := makeRecord_eq p r .refused x s
  refine ⟨f, a, ?_⟩
  unfold refuseAddress
  rw [h]
  cases hh : (s.upi.get p).hold <;> ext1 <;>
    simp [enterDiscard, releaseWith, releaseHold, driveNinth, hh, State.part, State.limits]

end Sys2Proof.Machine
end

