-- ==== Sys2Proof/Laws/Aborts.lean ====
section
/-!
SUPPORT. What an abort does to the part and the segment of a session (R49, R99, R101).
-/

namespace Sys2Proof.Machine

/-- The part of a session that an abort reaches is answered; its segment is given up afterwards. -/
theorem answerPart_aborted (q : Port) (s : State) : ∃ W, answerPart q .aborted s = W ∧
    W =
        { s with
          upi := s.upi.set q (W.upi.get q), session := s.session.set q (W.session.get q), seg := W.seg,
          flags := W.flags, alert := W.alert, queue := s.abortRecord q s.queue } ∧
    (∀ g, W.seg.get g = s.withdrawn q g (s.seg.get g)) ∧
    (W.session.get q).owned = (s.session.get q).owned ∧
    Aborted q s { W with session := W.session.set q { W.session.get q with owned := none } } := by
  refine ⟨_, rfl, ?_⟩
  have ident : ∀ g, (s.session.get q).state ≠ .grantWait →
      s.seg.get g = s.withdrawn q g (s.seg.get g) := by
    intro g h; unfold State.withdrawn; rw [if_neg (fun x => h x.1)]
  have wd : ∀ g, (s.session.get q).state = .grantWait →
      (withdraw q s).seg.get g = s.withdrawn q g (s.seg.get g) := by
    intro g h
    unfold withdraw State.withdrawn
    cases hs : (s.part q).segment with
    | none => simp
    | some k =>
      by_cases hk : g = k
      · subst hk; simp [h]
      · have : k ≠ g := fun h => hk h.symm
        simp [hk, this, h, State.updSeg]
  unfold answerPart
  cases hes : (s.session.get q).state <;> dsimp only
  case grantWait =>
    unfold refuseWaiting
    obtain ⟨f, a, h⟩ := refuseAddress_eq q .aborted none (withdraw q s)
    have hseg : (withdraw q s) = { s with seg := (withdraw q s).seg } := by unfold withdraw; split <;> rfl
    have hq : (withdraw q s).queueWith q .aborted .refused none = s.abortRecord q s.queue := by
      rw [queueWith_congr q .aborted .refused none s (withdraw q s)
        (by rw [hseg]; rfl) (by rw [hseg]) (by rw [hseg]; rfl)]
      unfold State.queueWith State.abortRecord
      cases hr : (s.part q).recorded <;> simp [State.relaying, hes]
    rw [h, hq]
    have w1 : (withdraw q s).session = s.session := by rw [hseg]
    have w2 : (withdraw q s).upi = s.upi := by rw [hseg]
    refine ⟨?_, fun g => wd g hes, by simp [w1], ?_⟩
    · rw [hseg]; ext1 <;> simp [State.part, State.limits]
    · rw [hseg]
      simp only [Aborted, hes, Discarding, Freed, State.relaying, State.part]
      simp
      intro h
      simpa [h] using discard_line (s.session.get q).part.direction s.settings.filler
  case connect =>
    obtain ⟨f, a, h⟩ := refuseAddress_eq q .aborted none s
    have hq : s.queueWith q .aborted .refused none = s.abortRecord q s.queue := by
      unfold State.queueWith State.abortRecord
      cases hr : (s.part q).recorded <;> simp [State.relaying, hes]
    rw [h, hq]
    refine ⟨?_, fun g => ident g (by simp [hes]), by simp, ?_⟩
    · ext1 <;> simp [State.part, State.limits]
    · simp only [Aborted, hes, Discarding, Freed, State.relaying, State.part]
      simp
      intro h
      simpa [h] using discard_line (s.session.get q).part.direction s.settings.filler
  case write =>
    obtain ⟨f, a, h⟩ := makeRecord_eq q .aborted .cut none s
    have hq : s.queueWith q .aborted .cut none = s.abortRecord q s.queue := by
      unfold State.queueWith State.abortRecord
      cases hr : (s.part q).recorded <;> simp [State.relaying, hes]
    rw [h, hq]
    by_cases hh : (s.upi.get q).hold = true
    · simp only [hh, if_true]
      refine ⟨?_, fun g => Eq.trans (by simp [enterDiscard, releaseWith, releaseHold, driveNinth, hh])
        (ident g (by simp [hes])), ?_, ?_⟩
      · ext1 <;> simp [enterDiscard, releaseWith, releaseHold, driveNinth, hh]
      · simp [enterDiscard, releaseWith, releaseHold, driveNinth, hh]
      · simp only [Aborted, hes, Discarding, Freed, State.relaying, State.part]
        simpa [enterDiscard, releaseWith, releaseHold, driveNinth, hh, State.part] using
          discard_line (s.session.get q).part.direction s.settings.filler
    · simp only [hh]
      refine ⟨?_, fun g => ident g (by simp [hes]), ?_, ?_⟩
      · ext1 <;> simp [enterDiscard, hh]
      · simp [enterDiscard]
      · simp only [Aborted, hes, Discarding, Freed, State.relaying, State.part]
        simp [enterDiscard, hh]
  case read =>
    obtain ⟨f, a, h⟩ := makeRecord_eq q .aborted .cut none s
    have hq : s.queueWith q .aborted .cut none = s.abortRecord q s.queue := by
      unfold State.queueWith State.abortRecord
      cases hr : (s.part q).recorded <;> simp [State.relaying, hes]
    rw [h, hq]
    by_cases hh : (s.upi.get q).hold = true
    · simp only [hh, if_true]
      refine ⟨?_, fun g => Eq.trans (by simp [enterFill, releaseHold, presentFiller, presentByte, countByte, hh])
        (ident g (by simp [hes])), ?_, ?_⟩
      · ext1 <;> simp [enterFill, releaseHold, presentFiller, presentByte, countByte, hh]
      · simp [enterFill, releaseHold, presentFiller, presentByte, countByte, hh]
      · simp only [Aborted, hes, Discarding, Freed, State.relaying, State.part]
        simp [enterFill, releaseHold, presentFiller, presentByte, countByte, hh, State.limits]
    · simp only [hh]
      refine ⟨?_, fun g => ident g (by simp [hes]), ?_, ?_⟩
      · ext1 <;> simp [enterFill]
      · simp [enterFill]
      · simp only [Aborted, hes, Discarding, Freed, State.relaying, State.part]
        simp [enterFill, hh]
  all_goals
    have hq : s.queue = s.abortRecord q s.queue := by
      unfold State.abortRecord
      simp [State.relaying, hes]
    rw [← hq]
    refine ⟨?_, fun g => ident g (by simp [hes]), rfl, ?_⟩
    · ext1 <;> simp
    · simp [Aborted, hes, State.relaying, State.part]

/-- An abort changes the session and the line of its port, the segment it owned, a list it waited in, the queue, the flags
and the alert lines. -/
theorem abortSession_eq (q : Port) (s : State) : ∃ W, abortSession q s = W ∧
    W =
        { s with
          upi := s.upi.set q (W.upi.get q), session := s.session.set q (W.session.get q), seg := W.seg,
          flags := W.flags, alert := W.alert, queue := s.abortRecord q s.queue } ∧
    (∀ g, W.seg.get g =
      if (s.session.get q).owned = some g then closing s.settings g (s.withdrawn q g (s.seg.get g))
      else s.withdrawn q g (s.seg.get g)) ∧
    Aborted q s W := by
  obtain ⟨V, hV, h1, h2, h3, h4⟩ := answerPart_aborted q s
  refine ⟨_, rfl, ?_⟩
  unfold abortSession
  rw [hV]
  unfold giveUpSegment
  rw [h3]
  cases ho : (s.session.get q).owned with
  | none =>
    dsimp only
    refine ⟨h1, by simpa using h2, ?_⟩
    have : V.session.set q { V.session.get q with owned := none } = V.session := by
      have : ({ V.session.get q with owned := none } : Session) = V.session.get q := by
        rw [ho] at h3; cases h : V.session.get q; rw [h] at h3; simp at h3; subst h3; rfl
      rw [this]; simp
    rw [this] at h4; exact h4
  | some g =>
    dsimp only
    have hset : V.settings = s.settings := by rw [h1]
    refine ⟨?_, fun k => ?_, ?_⟩
    · conv => lhs; rw [h1]
      ext1 <;> simp [startClose, loseOwnership]
      simp only [hset]
    · by_cases hk : g = k
      · subst hk; simp [startClose, loseOwnership, closing, hset, h2]
      · have : k ≠ g := fun h => hk h.symm
        simp [startClose, loseOwnership, hk, this, h2, State.updSeg]
    · obtain ⟨a, b, c, d, e, f⟩ := h4
      simp [Aborted, startClose, loseOwnership, Discarding, Freed, State.part] at a b c d e f ⊢
      exact ⟨b, c, d, e, f⟩

/-- The record of an abort rests on the session, the banks and the Bank Controller. -/
theorem abortRecord_congr (q : Port) (x : ViolationQueue) (s t : State)
    (h1 : t.session.get q = s.session.get q) (h2 : t.bank = s.bank) (h3 : t.bc = s.bc) :
    t.abortRecord q x = s.abortRecord q x := by
  have h4 : t.part q = s.part q := by unfold State.part; rw [h1]
  have h5 : t.judged q = s.judged q := by unfold State.judged State.judgedId; rw [h1, h2, h3]
  unfold State.abortRecord State.violationOf State.relaying
  rw [h1, h4, h5]

/-- The outcome of an abort rests on the session and the line of the port, and the settings. -/
theorem aborted_congr (q : Port) (s t s' t' : State)
    (h1 : s'.session.get q = s.session.get q) (h2 : s'.upi.get q = s.upi.get q)
    (h3 : s'.settings = s.settings)
    (h4 : t'.session.get q = t.session.get q) (h5 : t'.upi.get q = t.upi.get q) (h6 : t'.settings = t.settings)
    (h : Aborted q s t) : Aborted q s' t' := by
  unfold Aborted Discarding Freed State.limits State.relaying State.part at *
  rw [h1, h2, h3, h4, h5, h6]
  exact h

end Sys2Proof.Machine
end

