-- ==== Sys2Proof/Laws/Images.lean ====
section
/-!
SUPPORT. An image that passes its field checks is the image of the item it stores (R2, R13); the bytes of a violation
record (R190).
-/

namespace Sys2Proof.Machine

theorem halfOf_toNat (hi lo : Byte) : (halfOf hi lo).toNat = hi.toNat * 256 + lo.toNat := by
  have h : (halfOf hi lo).toNat = hi.toNat <<< 8 ||| lo.toNat := BitVec.toNat_append hi lo
  rw [h, ← Nat.shiftLeft_add_eq_or_of_lt lo.isLt, Nat.shiftLeft_eq]

theorem be16_halfOf (hi lo : Byte) : be16 (halfOf hi lo) = [hi, lo] := by
  have h := halfOf_toNat hi lo
  have h1 := hi.isLt
  have h2 := lo.isLt
  simp only [be16, List.cons.injEq, and_true]
  constructor <;> apply BitVec.eq_of_toNat_eq <;> simp [BitVec.extractLsb'_toNat, h, Nat.shiftRight_eq_div_pow] <;> omega

theorem halfOf_be16 (x : Half) : halfOf (x.extractLsb' 8 8) (x.extractLsb' 0 8) = x := by
  apply BitVec.eq_of_toNat_eq
  rw [halfOf_toNat]
  have := x.isLt
  simp [BitVec.extractLsb'_toNat, Nat.shiftRight_eq_div_pow]
  omega

/-! ## The header -/

theorem yesNo_code {b : Byte} {d : Bool} (h : yesNoOfByte b = some d) : b = if d then 1 else 0 := by
  unfold yesNoOfByte at h
  split at h <;> simp at h <;> subst h <;> simp <;> bv_omega

theorem seg_code {b : Byte} {g : SegId} (h : segOfByte b = some g) : SegId.code g = b := by
  unfold segOfByte at h
  split at h <;> simp at h <;> subst h <;> simp only [SegId.code] <;> bv_omega

theorem headerImage_of {l : List Byte} {h : Header} (e : headerOfImage l = some h) :
    headerImage h = l ∧ h.refillTick ≠ 0 := by
  unfold headerOfImage at e
  split at e
  · rename_i b0 b1 b2 b3 b4 b5 b6 b7
    split at e
    · rename_i d ds g gs h0 h1 h2 h3
      split at e
      · cases e
      · rename_i hn
        simp only [Option.some.injEq] at e
        subst e
        have e0 := yesNo_code h0
        have e2 := yesNo_code h2
        refine ⟨?_, hn⟩
        cases d <;> cases g <;> simp [headerImage, be16_halfOf, seg_code h1, seg_code h3, e0, e2]
    · cases e
  · cases e

/-! ## The entry -/

theorem addr10_toNat (hi : BitVec 2) (lo : Byte) : (addr10 hi lo).toNat = hi.toNat * 256 + lo.toNat := by
  have h : (addr10 hi lo).toNat = hi.toNat <<< 8 ||| lo.toNat := BitVec.toNat_append hi lo
  rw [h, ← Nat.shiftLeft_add_eq_or_of_lt lo.isLt, Nat.shiftLeft_eq]

theorem addrImage_addr10 {hi : Byte} (lo : Byte) (h : hi.toNat < 4) :
    addrImage (addr10 (hi.extractLsb' 0 2) lo) = [hi, lo] := by
  have h1 := addr10_toNat (hi.extractLsb' 0 2) lo
  have h2 := lo.isLt
  have h3 (x : BitVec 2) : (0#6 ++ x : Byte).toNat = x.toNat := by
    have : (0#6 ++ x : Byte).toNat = (0#6).toNat <<< 2 ||| x.toNat := BitVec.toNat_append _ _
    simpa using this
  simp only [addrImage, addrHigh, addrLow, List.cons.injEq, and_true]
  constructor <;> apply BitVec.eq_of_toNat_eq
  · rw [h3]
    simp [BitVec.extractLsb'_toNat, h1, Nat.shiftRight_eq_div_pow] 
    omega
  · simp [BitVec.extractLsb'_toNat, h1, Nat.shiftRight_eq_div_pow]
    omega

theorem width_code {x : BitVec 2} {w : Width} : widthOfBits x = some w → Width.code w = x := by
  revert x
  cases w <;> decide

theorem access_code : ∀ x : BitVec 2, Access.code (accessOfBits x) = x := by decide

theorem segBits_code : ∀ x : BitVec 2, SegId.bits (segOfBits x) = x := by decide

theorem entryFlags_of {f : Byte} {v k l m t : Bool} {x : BitVec 2} (hv : v = f.getLsbD 7) (hk : k = f.getLsbD 6)
    (hl : l = f.getLsbD 5) (hm : m = f.getLsbD 4) (ht : t = f.getLsbD 3) (hz : f.getLsbD 2 = false)
    (hx : x = f.extractLsb' 0 2) :
    (bit v ++ bit k ++ bit l ++ bit m ++ bit t ++ 0#1 ++ x : BitVec (1 + 1 + 1 + 1 + 1 + 1 + 2)) = f := by
  subst hv hk hl hm ht hx
  revert hz
  revert f
  decide

theorem accessByte_of {a : Byte} {x y z : BitVec 2} (h : a.extractLsb' 6 2 = 0) (hx : x = a.extractLsb' 4 2)
    (hy : y = a.extractLsb' 2 2) (hz : z = a.extractLsb' 0 2) : (0#2 ++ x ++ y ++ z : BitVec (2 + 2 + 2 + 2)) = a := by
  subst hx hy hz
  revert h
  revert a
  decide

theorem limit_of (b : Byte) : limitImage (limitOfByte b) = b := by
  unfold limitOfByte
  split
  · rename_i h
    exact h.symm
  · rfl

theorem list_of {f c : Byte} {l : Option WindowList} (h : listOfBytes f c = some l) : listImage l = [f, c] := by
  unfold listOfBytes at h
  split at h
  · rename_i hc
    split at h
    · rename_i hf
      cases h
      rw [hf, hc]
      rfl
    · cases h
  · split at h
    · cases h
      rfl
    · cases h

theorem match_of {k : AddrKind} {hi lo : Byte} {a : Addr} (h : matchOfBytes k hi lo = some a) : addrImage a = [hi, lo] := by
  unfold matchOfBytes at h
  split at h
  · rename_i hc
    cases h
    exact addrImage_addr10 lo hc.1
  · cases h

theorem target_of {p : Bool} {hi lo : Byte} {a : Option Addr} (h : targetOfBytes p hi lo = some a) :
    addrImage (a.getD 0) = [hi, lo] ∧ a.isSome = p := by
  unfold targetOfBytes at h
  split at h
  · rename_i hp
    split at h
    · rename_i hc
      cases h
      exact ⟨addrImage_addr10 lo hc, by simp [hp]⟩
    · cases h
  · rename_i hp
    split at h
    · rename_i hc
      cases h
      refine ⟨?_, by simp [hp]⟩
      rw [hc.1, hc.2]
      decide
    · cases h

/-- ENTRY_WRITE stores an entry whose image is the one it carried. -/
theorem entryImage_of {l : List Byte} {e : Entry} (h : entryOfImage l = some e) : entryImage e = l := by
  unfold entryOfImage at h
  split at h
  · rename_i f m1 m2 t1 t2 a w1 wc r1 rc wl rl cl cr z1 z2
    dsimp only at h
    split at h
    · rename_i width addr target writes reads hw hm ht hwl hrl
      split at h
      · rename_i hz
        obtain ⟨z, za, zb, zc⟩ := hz
        cases h
        obtain ⟨ht1, ht2⟩ := target_of ht
        have h1 : ∀ b : Bool, decide ((if b then AddrKind.ten else .seven) = .ten) = b := by decide
        have h2 : ∀ b : Bool, decide ((if b then Action.logOnly else .refuse) = .logOnly) = b := by decide
        have h3 : ∀ b : Bool, decide ((if b then WindowMode.everyByte else .atStart) = .everyByte) = b := by decide
        simp only [entryImage, match_of hm, ht1, list_of hwl, list_of hrl, limit_of, zb, zc]
        rw [show ∀ x y : Byte, ([x] ++ [m1, m2] ++ [t1, t2] ++ [y] ++ [w1, wc] ++ [r1, rc] ++ [wl, rl, cl, cr, 0, 0] : List Byte)
          = [x, m1, m2, t1, t2, y, w1, wc, r1, rc, wl, rl, cl, cr, 0, 0] from fun _ _ => rfl]
        congr 1
        · exact entryFlags_of rfl (h1 _) (h2 _) (h3 _) ht2 z (width_code hw)
        · congr 5
          exact accessByte_of za (access_code _) (access_code _) (segBits_code _)
      · cases h
    · cases h
  · cases h

/-! ## Windows -/

theorem windows_of : ∀ {l : List Byte} {ws : List Window}, windowsOfImages l = some ws →
    ∀ w ∈ ws, w.low.toNat ≤ w.high.toNat
  | [], ws, h, w, hw => by
    cases h
    cases hw
  | [_], _, h, _, _ => by cases h
  | [_, _], _, h, _, _ => by cases h
  | [_, _, _], _, h, _, _ => by cases h
  | l1 :: l2 :: h1 :: h2 :: rest, ws, h, w, hw => by
    unfold windowsOfImages at h
    split at h
    · rename_i hle
      cases hr : windowsOfImages rest with
      | none => rw [hr] at h; cases h
      | some r =>
        rw [hr] at h
        cases h
        rcases List.mem_cons.mp hw with e | e
        · subst e
          exact hle
        · exact windows_of hr w e
    · cases h

/-! ## The violation record -/

/-- A 16-bit field, most significant byte first, by division. -/
theorem be16_bytes (x : Half) : be16 x = [BitVec.ofNat 8 (x.toNat / 256), BitVec.ofNat 8 x.toNat] := by
  unfold be16
  congr 1
  apply BitVec.eq_of_toNat_eq
  simp [BitVec.extractLsb', Nat.shiftRight_eq_div_pow]

/-- The bytes of a violation record, written out (R190). -/
theorem recordImage_eq (v : Violation) : recordImage v = recordBytes v := by
  obtain ⟨seq, port, reason, outcome, direction, kind, address, entry, segment, offset, position, tag⟩ := v
  have h2 : (bit (port = .up1) ++ bit (direction = .read) ++ bit (kind = .ten) ++ Reason.code reason :
        BitVec (1 + 1 + 1 + 5)) =
      BitVec.ofNat 8
        (weight (port = .up1) 128 + weight (direction = .read) 64 + weight (kind = .ten) 32 + reason.number) := by
    cases port <;> cases direction <;> cases kind <;> cases reason <;> rfl
  have hi : address.toNat / 256 = (addrHigh address).toNat := by
    simp [addrHigh, BitVec.extractLsb', Nat.shiftRight_eq_div_pow]
    omega
  have h3 (a b c : Bool) (h : BitVec 2) :
      (RecordOutcome.code outcome ++ bit a ++ bit b ++ bit c ++ 0#1 ++ h : BitVec (2 + 1 + 1 + 1 + 1 + 2)) =
        BitVec.ofNat 8
          (weight (outcome = .cut) 64 + weight (outcome = .passed) 128 + weight a 32 + weight b 16 + weight c 8 +
            h.toNat) := by
    revert a b c h
    cases outcome <;> decide
  have lo : addrLow address = BitVec.ofNat 8 address.toNat := by
    apply BitVec.eq_of_toNat_eq
    simp [addrLow, BitVec.extractLsb']
  unfold recordImage recordBytes
  dsimp only
  rw [h2, h3, be16_bytes, be16_bytes, be16_bytes, hi, lo]
  cases entry <;> (cases segment with
    | none => rfl
    | some g => cases g <;> rfl)

end Sys2Proof.Machine
end

