-- ==== Sys2Proof/Laws/Edits.lean ====
section
/-!
SUPPORT. An edit of a bank whose items pass their field checks leaves such a bank (R13).
-/

namespace Sys2Proof.Machine

theorem cleared_safe : entryOfImage (entryImage clearedEntry) = some clearedEntry := by decide

theorem resetBank_safe (d : Bool) : BankSafe (resetBank d) := by
  refine ⟨?_, fun i => ?_, fun j => ?_⟩
  · cases d <;> decide
  · rw [show tableGet (resetBank d).entries i = clearedEntry by simp [resetBank]]
    exact cleared_safe
  · simp [resetBank]

theorem headerEdit_safe {l : List Byte} {f : Bank → Bank} (h : headerEdit l = some f) (k : Bank) (hk : BankSafe k) :
    BankSafe (f k) := by
  unfold headerEdit at h
  cases hh : headerOfImage l with
  | none => rw [hh] at h; cases h
  | some x =>
    rw [hh] at h
    cases h
    refine ⟨?_, hk.2⟩
    rw [(headerImage_of hh).1]
    exact hh

theorem setEntry_safe (i : EntryIdx) {e : Entry} (he : entryOfImage (entryImage e) = some e) (k : Bank) (hk : BankSafe k) :
    BankSafe { k with entries := tableSet k.entries i e } := by
  refine ⟨hk.1, fun j => ?_, hk.2.2⟩
  simp only [tableGet_tableSet]
  split
  · exact he
  · exact hk.2.1 j

theorem entryEdit_safe {b : Byte} {l : List Byte} {f : Bank → Bank} (h : entryEdit b l = some f) (k : Bank)
    (hk : BankSafe k) : BankSafe (f k) := by
  unfold entryEdit at h
  split at h
  · rename_i i e _ he
    cases h
    exact setEntry_safe i (by rw [entryImage_of he]; exact he) k hk
  · cases h

theorem clearEdit_safe {b : Byte} {f : Bank → Bank} (h : clearEdit b = some f) (k : Bank) (hk : BankSafe k) :
    BankSafe (f k) := by
  unfold clearEdit at h
  cases hi : entryIdxOfByte b with
  | none => rw [hi] at h; cases h
  | some i =>
    rw [hi] at h
    cases h
    exact setEntry_safe i cleared_safe k hk

theorem storeWindows_safe (l : List Window) (hl : ∀ w ∈ l, w.low.toNat ≤ w.high.toNat) (i : Nat) (v : Vector Window 256)
    (hv : ∀ j, (tableGet v j).low.toNat ≤ (tableGet v j).high.toNat) (j : WindowIdx) :
    (tableGet (storeWindows i l v) j).low.toNat ≤ (tableGet (storeWindows i l v) j).high.toNat := by
  induction l generalizing i v with
  | nil => exact hv j
  | cons w rest ih =>
    unfold storeWindows
    refine ih (fun x hx => hl x (List.mem_cons_of_mem _ hx)) _ _ fun m => ?_
    split
    · rename_i h
      have e := tableGet_tableSet v ⟨i, h⟩ m w
      unfold tableSet at e
      rw [e]
      split
      · exact hl w List.mem_cons_self
      · exact hv m
    · exact hv m

theorem windowEdit_safe {b : Byte} {l : List Byte} {f : Bank → Bank} (h : windowEdit b l = some f) (k : Bank)
    (hk : BankSafe k) : BankSafe (f k) := by
  unfold windowEdit at h
  split at h
  · rename_i ws hw
    split at h
    · cases h
      exact ⟨hk.1, hk.2.1, fun j => storeWindows_safe ws (windows_of hw) _ _ hk.2.2 j⟩
    · cases h
  · cases h

end Sys2Proof.Machine
end

