-- ==== Sys2Proof/Laws/Effects.lean ====
section
/-!
SUPPORT. What a command can do to banks, slots, queue, flags, alert lines and settings, said once: the effects a meaning is
made of. Every shared operation is shown to be made of them; an invariant then needs one case per effect.
-/

namespace Sys2Proof.Machine

/-- Two states agree on what the effects below track. -/
structure Same (s t : State) : Prop where
  pending : t.pending = s.pending
  phase : t.phase = s.phase
  straps : t.straps = s.straps
  settings : t.settings = s.settings
  captured : ∀ p, (t.session.get p).bank = (s.session.get p).bank
  bank : t.bank = s.bank
  bc : t.bc = s.bc
  credits : ∀ k i, (tableGet (t.accounts.get k) i).bucket = (tableGet (s.accounts.get k) i).bucket
  slot : t.slot = s.slot
  job : t.job = s.job
  queue : t.queue = s.queue
  flags : t.flags = s.flags
  alert : t.alert = s.alert

/-- What a command that is not a reset is made of. -/
inductive Effect : State → State → Prop
  | same {s t : State} (h : Same s t) : Effect s t
  | trans {s t u : State} (h : Effect s t) (h' : Effect t u) : Effect s u
  | append (v : Violation) (s : State) : Effect s (appendViolation v s)
  | remove (n : Nat) (s : State) : Effect s (removeViolations n s)
  | segmentEvent (s : State) : Effect s (latchSegmentEvent s)
  | clearFlags (p : Port) (s : State) : Effect s (clearPortFlags p s)
  | settings (record : List Byte) (r : Settings) (h : settingsOfBytes record = some r) (s : State) :
      Effect s (evalAlerts (s.setSettings r))
  | finish (p : Port) (t : Status) (payload : List Byte) (h : t ≠ .inProgress) (s : State) :
      Effect s (finishCommand p t payload s)
  | long (p : Port) (j : LongCommand) (s : State) : Effect s (startLong p j s)
  | rejob (p : Port) (i j : LongCommand) (s : State) (h : s.job.get p = some i) : Effect s (s.setJob p (some j))
  | capture (p : Port) (s : State) : Effect s (captureBank p s)
  | release (p : Port) (s : State) : Effect s (releaseBank p s)
  | edit (f : Bank → Bank) (s : State) (hf : ∀ k, BankSafe k → BankSafe (f k)) (hl : s.bc.locked = false) (he : s.bc.shadow = .editable) :
      Effect s ((s.updBank s.shadowId f).updBc fun c => { c with dirty := true })
  | stage (f : BankController → BankController) (s : State) (he : s.bc.shadow = .editable)
      (ha : (f s.bc).active = s.bc.active) (hh : (f s.bc).holders = s.bc.holders) (hd : (f s.bc).shadow ≠ .draining)
      (hc : s.bc.commit = none → ((f s.bc).shadow = .validating ↔ (f s.bc).commit.isSome))
      (hk : s.bc.locked = false → ((f s.bc).shadow = .locked ↔ (f s.bc).locked)) : Effect s (s.updBc f)
  | reload (s : State) (h : s.bc.shadow = .reloading) :
      Effect s ((s.updBank s.shadowId fun _ => s.bank.get s.bc.active).updBc fun c =>
        { c with shadow := .editable, dirty := false })
  | swap (j : CommitJob) (s : State) (h : s.bc.commit = some j)
      (hv : commitFailure s.managementAddress j.expected (s.bank.get s.shadowId) = none) : Effect s (swapBanks j s)
  | fail (j : CommitJob) (f : CommitFailure) (s : State) (h : s.bc.commit = some j) : Effect s (failCommit j f s)
  | credit (k : BankId) (i : EntryIdx) (n : Nat) (s : State) (h : (tableGet (s.accounts.get k) i).bucket = some (n + 1)) :
      Effect s (s.updAccount k i fun a => { a with bucket := some n })
  | refill (s : State) : Effect s (refillBuckets s)

/-! ## Operations that change nothing tracked -/

theorem Same.rfl' (s : State) : Same s s := ⟨rfl, rfl, rfl, rfl, fun _ => rfl, rfl, rfl, fun _ _ => rfl, rfl, rfl, rfl, rfl, rfl⟩

theorem Same.trans {s t u : State} (h : Same s t) (h' : Same t u) : Same s u :=
  ⟨h'.pending.trans h.pending, h'.phase.trans h.phase, h'.straps.trans h.straps, h'.settings.trans h.settings,
    fun p => (h'.captured p).trans (h.captured p), h'.bank.trans h.bank, h'.bc.trans h.bc,
    fun k i => (h'.credits k i).trans (h.credits k i), h'.slot.trans h.slot, h'.job.trans h.job, h'.queue.trans h.queue,
    h'.flags.trans h.flags, h'.alert.trans h.alert⟩

theorem Effect.refl (s : State) : Effect s s := .same (Same.rfl' s)

theorem same_updUpi (s : State) (p : Port) (f : Upi → Upi) : Same s (s.updUpi p f) :=
  ⟨rfl, rfl, rfl, rfl, fun _ => rfl, rfl, rfl, fun _ _ => rfl, rfl, rfl, rfl, rfl, rfl⟩

theorem same_updSession (s : State) (p : Port) (f : Session → Session)
    (h : (f (s.session.get p)).bank = (s.session.get p).bank) : Same s (s.updSession p f) where
  pending := rfl
  phase := rfl
  straps := rfl
  settings := rfl
  captured q := by
    by_cases e : q = p
    · subst e; simpa using h
    · simp [e]
  bank := rfl
  bc := rfl
  credits _ _ := rfl
  slot := rfl
  job := rfl
  queue := rfl
  flags := rfl
  alert := rfl

theorem same_updPart (s : State) (p : Port) (f : Part → Part) : Same s (s.updPart p f) := same_updSession s p _ rfl

theorem same_setSessionState (s : State) (p : Port) (t : SessionState) : Same s (s.setSessionState p t) :=
  same_updSession s p _ rfl

theorem same_updSeg (s : State) (g : SegId) (f : Segment → Segment) : Same s (s.updSeg g f) :=
  ⟨rfl, rfl, rfl, rfl, fun _ => rfl, rfl, rfl, fun _ _ => rfl, rfl, rfl, rfl, rfl, rfl⟩
theorem same_updSegCounters (s : State) (g : SegId) (f : SegCounters → SegCounters) : Same s (s.updSegCounters g f) :=
  ⟨rfl, rfl, rfl, rfl, fun _ => rfl, rfl, rfl, fun _ _ => rfl, rfl, rfl, rfl, rfl, rfl⟩
theorem same_updAccount (s : State) (k : BankId) (i : EntryIdx) (f : EntryAccount → EntryAccount)
    (h : ∀ a, (f a).bucket = a.bucket) : Same s (s.updAccount k i f) where
  pending := rfl
  phase := rfl
  straps := rfl
  settings := rfl
  captured _ := rfl
  bank := rfl
  bc := rfl
  credits l j := by
    by_cases e : l = k
    · subst e
      by_cases e' : j = i
      · subst e'
        simp [h]
      · simp [e']
    · simp [e]
  slot := rfl
  job := rfl
  queue := rfl
  flags := rfl
  alert := rfl
theorem same_updPortCounters (s : State) (p : Port) (f : PortCounters → PortCounters) : Same s (s.updPortCounters p f) :=
  ⟨rfl, rfl, rfl, rfl, fun _ => rfl, rfl, rfl, fun _ _ => rfl, rfl, rfl, rfl, rfl, rfl⟩
theorem same_updParser (s : State) (p : Port) (f : Parser → Parser) : Same s (s.updParser p f) :=
  ⟨rfl, rfl, rfl, rfl, fun _ => rfl, rfl, rfl, fun _ _ => rfl, rfl, rfl, rfl, rfl, rfl⟩
theorem same_setReadback (s : State) (p : Port) (l : List Byte) : Same s (s.setReadback p l) :=
  ⟨rfl, rfl, rfl, rfl, fun _ => rfl, rfl, rfl, fun _ _ => rfl, rfl, rfl, rfl, rfl, rfl⟩
theorem same_setHolder (s : State) (h : Option Port) : Same s (s.setHolder h) :=
  ⟨rfl, rfl, rfl, rfl, fun _ => rfl, rfl, rfl, fun _ _ => rfl, rfl, rfl, rfl, rfl, rfl⟩
theorem same_setIdle (s : State) (t : Option Byte) : Same s (s.setIdle t) :=
  ⟨rfl, rfl, rfl, rfl, fun _ => rfl, rfl, rfl, fun _ _ => rfl, rfl, rfl, rfl, rfl, rfl⟩

theorem same_beginHold (p : Port) (s : State) : Same s (beginHold p s) :=
  (same_updUpi s p _).trans (same_updSession _ p _ rfl)

theorem same_releaseHold (p : Port) (s : State) : Same s (releaseHold p s) := by
  unfold releaseHold
  split
  · exact (same_updUpi s p _).trans (same_updSession _ p _ rfl)
  · exact Same.rfl' s

theorem same_driveNinth (p : Port) (a : Ack) (s : State) : Same s (driveNinth p a s) := same_updUpi s p _

theorem same_releaseWith (p : Port) (a : Ack) (s : State) : Same s (releaseWith p a s) :=
  (same_driveNinth p a s).trans (same_releaseHold p _)

theorem same_presentByte (p : Port) (b : Byte) (s : State) : Same s (presentByte p b s) := same_updUpi s p _

theorem same_countByte (p : Port) (s : State) : Same s (countByte p s) := same_updPart s p _

theorem same_presentFiller (p : Port) (s : State) : Same s (presentFiller p s) :=
  (same_presentByte p _ s).trans (same_countByte p _)

theorem same_countWriteByte (p : Port) (s : State) : Same s (countWriteByte p s) := by
  unfold countWriteByte
  exact same_updPart s p _

theorem same_enterDiscard (p : Port) (s : State) : Same s (enterDiscard p s) :=
  (same_updSession s p _ rfl).trans (same_updUpi _ p _)

theorem same_enterFill (p : Port) (s : State) : Same s (enterFill p s) := same_setSessionState s p _

theorem same_loseOwnership (p : Port) (s : State) : Same s (loseOwnership p s) := same_updSession s p _ rfl

theorem same_withdraw (p : Port) (s : State) : Same s (withdraw p s) := by
  unfold withdraw
  split
  · exact same_updSeg s _ _
  · exact Same.rfl' s

theorem same_driveAddress (p : Port) (g : SegId) (r : Bool) (s : State) : Same s (driveAddress p g r s) :=
  (same_setSessionState s p _).trans (same_updSeg _ g _)

theorem same_grantSegment (p : Port) (g : SegId) (s : State) : Same s (grantSegment p g s) :=
  ((same_updSeg s g _).trans (same_updSegCounters _ g _)).trans
    ((same_updSession _ p _ rfl).trans (same_driveAddress p g false _))

theorem same_grantHead (g : SegId) (s : State) : Same s (grantHead g s) := by
  unfold grantHead
  split
  · exact Same.rfl' s
  · exact same_grantSegment _ g s

theorem same_startClose (g : SegId) (s : State) : Same s (startClose g s) := same_updSeg s g _

theorem same_closeStep (g : SegId) (t : CloseStep) (s : State) : Same s (closeStep g t s) := same_updSeg s g _

theorem same_releaseSegment (p : Port) (s : State) : Same s (releaseSegment p s) := by
  unfold releaseSegment
  split
  · exact Same.rfl' s
  · exact (same_loseOwnership p s).trans (same_updSeg _ _ _)

theorem same_giveUpSegment (p : Port) (s : State) : Same s (giveUpSegment p s) := by
  unfold giveUpSegment
  split
  · exact Same.rfl' s
  · exact (same_loseOwnership p s).trans (same_startClose _ _)

theorem same_setDecision (p : Port) (d : Decision) (g : SegId) (a : Addr) (s : State) :
    Same s (setDecision p d g a s) := same_updPart s p _

theorem same_setAddress (p : Port) (k : AddrKind) (a : Addr) (s : State) : Same s (setAddress p k a s) :=
  same_updPart s p _

theorem same_presentSlotByte (p : Port) (s : State) : Same s (presentSlotByte p s) := by
  unfold presentSlotByte
  split
  · exact (same_presentByte p _ s).trans (same_countByte p _)
  · exact ((same_setReadback s p _).trans (same_presentByte p _ _)).trans (same_countByte p _)

theorem same_driveBytes (p : Port) (b : Byte) (l : List Byte) (s : State) : Same s (driveBytes p b l s) := by
  unfold driveBytes
  split
  · exact Same.rfl' s
  · exact same_updSeg s _ _

theorem same_advancePointer (p : Port) (s : State) : Same s (advancePointer p s) := by
  unfold advancePointer
  split
  · exact Same.rfl' s
  · split
    · exact Same.rfl' s
    · exact same_updSession s p _ rfl

theorem same_writeAcknowledged (p : Port) (s : State) : Same s (writeAcknowledged p s) := by
  unfold writeAcknowledged
  split
  · exact Same.rfl' s
  · split
    · exact same_updSession s p _ rfl
    · exact same_advancePointer p s

theorem same_clockNinth (g : SegId) (a : Ack) (s : State) : Same s (clockNinth g a s) := same_updSeg s g _

theorem same_finishCut (p : Port) (g : SegId) (s : State) : Same s (finishCut p g s) :=
  (((same_clockNinth g .nack s).trans (same_releaseSegment p _)).trans (same_presentFiller p _)).trans
    ((same_releaseHold p _).trans (same_enterFill p _))

theorem same_receiveByte (p : Port) (g : SegId) (b : Byte) (cut : Bool) (s : State) :
    Same s (receiveByte p g b cut s) := by
  have h := (same_advancePointer p s).trans (same_updSeg _ g fun c => { c with act := none, ninthOwed := true })
  cases cut
  · exact h.trans (((same_presentByte p b _).trans (same_countByte p _)).trans
      ((same_updPart _ p _).trans (same_releaseHold p _)))
  · exact h.trans (same_finishCut p g _)

theorem same_endWithNack (p : Port) (s : State) : Same s (endWithNack p s) :=
  ((same_releaseWith p .nack s).trans (same_releaseSegment p _)).trans (same_enterDiscard p _)

end Sys2Proof.Machine
end

