-- ==== Sys2Proof/Laws/Operations.lean ====
section
/-!
SUPPORT. Every shared operation that records, answers, judges, relays or executes is made of the effects of Effects.lean.
-/

namespace Sys2Proof.Machine

/-- An effect followed by an operation that changes nothing tracked. -/
theorem Effect.then {s t u : State} (h : Effect s t) (h' : Same t u) : Effect s u := h.trans (.same h')

/-- An operation that changes nothing tracked, followed by an effect. -/
theorem Same.before {s t u : State} (h : Same s t) (h' : Effect t u) : Effect s u := (Effect.same h).trans h'

/-! ## Records and refusals -/

theorem effect_makeRecord (p : Port) (r : Reason) (o : RecordOutcome) (x : Option Half) (s : State) :
    Effect s (makeRecord p r o x s) := by
  unfold makeRecord
  split
  · exact .refl s
  · exact (Effect.append _ s).then (same_updPart _ p _)

theorem effect_refuseAddress (p : Port) (r : Reason) (x : Option Half) (s : State) :
    Effect s (refuseAddress p r x s) :=
  ((effect_makeRecord p r .refused x s).then (same_updPart _ p _)).then
    ((same_releaseWith p .nack _).trans (same_enterDiscard p _))

theorem effect_refuseAll (r : Reason) (l : List Port) (s : State) :
    Effect s (l.foldl (fun s p => refuseAddress p r none s) s) := by
  induction l generalizing s with
  | nil => exact .refl s
  | cons p l ih => exact (effect_refuseAddress p r none s).trans (ih _)

theorem effect_refuseWaiters (g : SegId) (s : State) : Effect s (refuseWaiters g s) :=
  (same_updSeg s g _).before (effect_refuseAll _ _ _)

theorem effect_refuseWaiting (p : Port) (r : Reason) (s : State) : Effect s (refuseWaiting p r s) :=
  (same_withdraw p s).before (effect_refuseAddress p r none _)

/-! ## Segments -/

theorem effect_completeJob (g : SegId) (t : SegState) (r : QuarantineReason) (p : Port) (s : State) :
    Effect s (completeJob g t r p s) := by
  unfold completeJob
  split
  · split
    · exact .finish p .ok _ (by decide) s
    · exact .refl s
  · split
    · exact .finish p .ok _ (by decide) s
    · exact .refl s
  · split
    · exact .finish p .ok _ (by decide) s
    · exact .refl s
  · rename_i h
    split
    · split
      · exact .finish p .ok _ (by decide) s
      · exact .rejob p _ _ s h
    · exact .refl s
  all_goals exact .refl s

theorem effect_completeJobs (g : SegId) (t : SegState) (r : QuarantineReason) (s : State) :
    Effect s (completeJobs g t r s) :=
  (effect_completeJob g t r .up0 s).trans (effect_completeJob g t r .up1 _)

theorem effect_enterDisabled (g : SegId) (s : State) : Effect s (enterDisabled g s) :=
  ((effect_refuseWaiters g s).then (same_updSeg _ g _)).trans (effect_completeJobs g _ _ _)

theorem effect_enterQuarantine (g : SegId) (r : QuarantineReason) (s : State) : Effect s (enterQuarantine g r s) := by
  have h (f : Segment → Segment) :
      Effect s (latchSegmentEvent (countQuarantine g (refuseWaiters g (s.updSeg g f)))) :=
    (((same_updSeg s g f).before (effect_refuseWaiters g _)).then (same_updSegCounters _ g _)).trans (.segmentEvent _)
  unfold enterQuarantine
  dsimp only
  split
  · exact (h _).trans (effect_enterDisabled g _)
  · exact (h _).trans (effect_completeJobs g _ _ _)

theorem effect_settleSegment (g : SegId) (s : State) : Effect s (settleSegment g s) := by
  unfold settleSegment
  split
  · exact effect_enterDisabled g s
  · exact ((same_updSeg s g _).before (effect_completeJobs g _ _ _)).then (same_grantHead g _)

theorem effect_joinWaiters (p : Port) (g : SegId) (s : State) : Effect s (joinWaiters p g s) := by
  unfold joinWaiters
  split
  · exact ((same_updSeg s g _).trans (same_withdraw p _)).before (effect_refuseAddress p _ _ _)
  · exact .same ((same_updSeg s g _).trans (same_updSession _ p _ rfl))

theorem same_defer (g : SegId) (d : Deferred) (s : State) : Same s (defer g d s) := same_updSeg s g _

theorem effect_requestSegment (p : Port) (g : SegId) (s : State) : Effect s (requestSegment p g s) := by
  have h := same_setSessionState s p .grantWait
  unfold requestSegment
  dsimp only
  split
  · exact .same (h.trans (same_grantSegment p g _))
  · split
    · exact h.before (effect_joinWaiters p g _)
    · exact .same (h.trans (same_defer g _ _))
  · exact h.before (effect_joinWaiters p g _)
  · exact h.before (effect_refuseAddress p _ _ _)
  · exact h.before (effect_refuseAddress p _ _ _)

theorem effect_forwardPart (p : Port) (s : State) : Effect s (forwardPart p s) := by
  unfold forwardPart
  split
  · exact .refl s
  · split
    · exact .same (same_driveAddress p _ true s)
    · exact (same_releaseSegment p s).before (effect_requestSegment p _ _)

theorem effect_answerPart (p : Port) (r : Reason) (s : State) : Effect s (answerPart p r s) := by
  unfold answerPart
  split
  · exact effect_refuseWaiting p r s
  · exact effect_refuseAddress p r none s
  · refine (effect_makeRecord p r .cut none s).then ?_
    dsimp only
    split
    · exact (same_releaseWith p .nack _).trans (same_enterDiscard p _)
    · exact same_enterDiscard p _
  · refine (effect_makeRecord p r .cut none s).then ?_
    dsimp only
    split
    · exact ((same_presentFiller p _).trans (same_releaseHold p _)).trans (same_enterFill p _)
    · exact same_enterFill p _
  all_goals exact .refl s

theorem effect_abortSession (p : Port) (s : State) : Effect s (abortSession p s) :=
  (effect_answerPart p .aborted s).then (same_giveUpSegment p _)

theorem same_pendDisable (g : SegId) (s : State) : Same s (pendDisable g s) := same_updSeg s g _

theorem effect_applyDisable (g : SegId) (s : State) : Effect s (applyDisable g s) := by
  unfold applyDisable
  split
  · exact effect_enterDisabled g s
  · exact effect_enterDisabled g s
  · exact .refl s
  · exact .same (same_pendDisable g s)
  · split
    · exact (effect_abortSession _ s).then (same_pendDisable g _)
    · exact .same (same_defer g _ s)

theorem effect_takeDeferred (g : SegId) (d : Deferred) (s : State) : Effect s (takeDeferred g d s) := by
  cases d with
  | request p => exact effect_requestSegment p g s
  | disable => exact effect_applyDisable g s

theorem effect_takeAllDeferred (g : SegId) (l : List Deferred) (s : State) : Effect s (takeAllDeferred g l s) := by
  unfold takeAllDeferred
  induction l generalizing s with
  | nil => exact .refl s
  | cons d l ih => exact (effect_takeDeferred g d s).trans (ih _)

/-! ## The address judgement -/

theorem effect_addressViolation (p : Port) (i : EntryIdx) (e : Entry) (r : Reason) (x : Option Half) (s : State) :
    Effect s (addressViolation p i e r x s).1 := by
  unfold addressViolation
  have h : Same s (countViolation p i s) := same_updAccount s _ i _ fun _ => rfl
  split
  · exact .same h
  · exact h.before (effect_makeRecord p r .passed x _)

theorem effect_andThen {s : State} {x : Judged} {f : State → Judged} (h : Effect s x.1)
    (h' : ∀ t, Effect t (f t).1) : Effect s (andThen x f).1 := by
  unfold andThen
  split
  · exact h
  · exact h.trans (h' _)

theorem effect_accessStep (p : Port) (i : EntryIdx) (e : Entry) (claim : Bool) (s : State) :
    Effect s (accessStep p i e claim s).1 := by
  unfold accessStep
  split
  · exact effect_addressViolation p i e _ _ s
  · split
    · exact .refl s
    · exact effect_addressViolation p i e _ _ s

theorem effect_readListStep (p : Port) (i : EntryIdx) (e : Entry) (s : State) :
    Effect s (readListStep p i e s).1 := by
  unfold readListStep
  split
  · split
    · exact effect_addressViolation p i e _ _ s
    · split
      · exact effect_addressViolation p i e _ _ s
      · exact .refl s
  all_goals exact .refl s

theorem effect_creditStep (p : Port) (i : EntryIdx) (e : Entry) (s : State) : Effect s (creditStep p i e s).1 := by
  unfold creditStep
  split
  · exact .refl s
  · split
    · rename_i n h
      exact .credit _ i n s h
    · exact effect_addressViolation p i e _ _ s
    · exact effect_addressViolation p i e _ _ s

theorem effect_judgeEntry (p : Port) (i : EntryIdx) (claim : Bool) (s : State) :
    Effect s (judgeEntry p i claim s).1 :=
  effect_andThen
    (effect_andThen ((same_setDecision p _ _ _ s).before (effect_accessStep p i _ claim _))
      fun t => effect_readListStep p i _ t)
    fun t => effect_creditStep p i _ t

theorem effect_judgeAddress (p : Port) (s : State) : Effect s (judgeAddress p s).1 := by
  unfold judgeAddress
  dsimp only
  split
  · split
    · exact .same (same_setDecision p _ _ _ s)
    · exact .refl s
  · split
    · exact .refl s
    · split
      · exact effect_judgeEntry p _ false s
      · split
        · exact effect_judgeEntry p _ true s
        · split
          · exact .same (same_setDecision p _ _ _ s)
          · exact .refl s

theorem effect_settleAddress (p : Port) (s : State) : Effect s (settleAddress p s) := by
  have h := effect_judgeAddress p s
  unfold settleAddress
  split
  · rename_i e
    rw [e] at h
    exact (h.then (same_releaseSegment p _)).trans (effect_refuseAddress p _ _ _)
  · rename_i e
    rw [e] at h
    exact h.trans (effect_forwardPart p _)

theorem effect_refuseFirstByte (p : Port) (s : State) : Effect s (refuseFirstByte p s) :=
  (same_releaseSegment p s).before (effect_refuseAddress p _ _ _)

theorem same_enterManagement (p : Port) (b : Byte) (s : State) : Same s (enterManagement p b s) := by
  have h := ((same_releaseSegment p s).trans (same_releaseWith p .ack _)).trans
    ((same_updPart _ p fun t => { t with decision := some .management }).trans (same_setSessionState _ p .mgmt))
  unfold enterManagement
  dsimp only
  split
  · exact h.trans (same_updParser _ p _)
  · exact h.trans ((same_setReadback _ p _).trans (same_presentSlotByte p _))

theorem same_discardManagement (p : Port) (s : State) : Same s (discardManagement p s) :=
  ((same_releaseSegment p s).trans (same_updPart _ p _)).trans
    ((same_releaseWith p .nack _).trans (same_enterDiscard p _))

theorem effect_beginPart (p : Port) (b : Byte) (s : State) : Effect s (beginPart p b s) :=
  (Effect.capture p s).then (same_updPart _ p _)

theorem effect_sevenBitAddress (p : Port) (b : Byte) (s : State) : Effect s (sevenBitAddress p b s) := by
  have h := (same_setAddress p .seven (addr7 (addressBits b)) s).trans (same_beginHold p _)
  unfold sevenBitAddress
  dsimp only
  split
  · split
    · exact .same (h.trans (same_enterManagement p b _))
    · exact .same (h.trans (same_discardManagement p _))
  · exact h.before (effect_settleAddress p _)

theorem effect_tenBitWriteFirst (p : Port) (b : Byte) (s : State) : Effect s (tenBitWriteFirst p b s) := by
  have h := same_setAddress p .ten (addr10 (highBits b) 0) s
  unfold tenBitWriteFirst
  dsimp only
  split
  · exact .same (h.trans ((same_updPart _ p _).trans (same_driveNinth p .ack _)))
  · exact h.before (effect_refuseFirstByte p _)

theorem effect_tenBitWriteSecond (p : Port) (first b : Byte) (s : State) :
    Effect s (tenBitWriteSecond p first b s) :=
  ((same_setAddress p _ _ s).trans ((same_updPart _ p _).trans (same_beginHold p _))).before
    (effect_settleAddress p _)

theorem effect_tenBitRead (p : Port) (b : Byte) (s : State) : Effect s (tenBitRead p b s) := by
  have h (a : Addr) := (same_setAddress p .ten a s).trans (same_beginHold p _)
  unfold tenBitRead
  dsimp only
  split
  · split
    · exact (h _).before (effect_settleAddress p _)
    · exact (h _).before (effect_refuseFirstByte p _)
  · exact (h _).before (effect_refuseFirstByte p _)

/-! ## The relay -/

theorem effect_dataViolation (p : Port) (i : EntryIdx) (e : Entry) (r : Reason) (x : Option Half) (s : State) :
    Effect s (dataViolation p i e r x s).1 := by
  have h : Same s (countViolation p i s) := same_updAccount s _ i _ fun _ => rfl
  unfold dataViolation
  split <;> exact h.before (effect_makeRecord p r _ x _)

theorem effect_andCheck {s : State} {x : Checked} {f : State → Checked} (h : Effect s x.1)
    (h' : ∀ t, Effect t (f t).1) : Effect s (andCheck x f).1 := by
  unfold andCheck
  split
  · exact h
  · exact h.trans (h' _)

theorem effect_windowCheck (p : Port) (i : EntryIdx) (e : Entry) (r : Reason) (l : Option WindowList)
    (x : Option Half) (s : State) : Effect s (windowCheck p i e r l x s).1 := by
  unfold windowCheck
  split
  · split
    · exact .refl s
    · exact effect_dataViolation p i e r _ s
  · exact .refl s

theorem effect_lengthCheck (p : Port) (i : EntryIdx) (e : Entry) (r : Reason) (l : Option Byte)
    (x : Option Half) (s : State) : Effect s (lengthCheck p i e r l x s).1 := by
  unfold lengthCheck
  split
  · split
    · exact effect_dataViolation p i e r x s
    · exact .refl s
  · exact .refl s

theorem effect_writeDataChecks (p : Port) (i : EntryIdx) (e : Entry) (s : State) :
    Effect s (writeDataChecks p i e s).1 :=
  effect_andCheck (effect_windowCheck p i e _ _ _ s) fun t => effect_lengthCheck p i e _ _ _ t

theorem same_finishWriteByte (p : Port) (b : Byte) (held : Option Byte) (x : Checked) :
    Same x.1 (finishWriteByte p b held x) := by
  have h := (same_countWriteByte p x.1).trans (same_updPart _ p fun t => { t with held := none })
  unfold finishWriteByte
  dsimp only
  split
  · exact h.trans (same_endWithNack p _)
  · split
    · exact h.trans (same_driveBytes p _ _ _)
    · exact h.trans (same_driveBytes p _ _ _)

theorem same_holdFirstByte (p : Port) (b : Byte) (s : State) : Same s (holdFirstByte p b s) :=
  ((same_updPart s p _).trans (same_updPart _ p _)).trans
    ((same_countWriteByte p _).trans (same_driveNinth p .ack _))

theorem effect_relayWriteByte (p : Port) (b : Byte) (s : State) : Effect s (relayWriteByte p b s) := by
  unfold relayWriteByte
  split
  · exact .same ((same_beginHold p s).trans (same_finishWriteByte p b none (_, false)))
  · dsimp only
    split
    · exact .same (same_holdFirstByte p b s)
    · split
      · exact (((same_beginHold p s).trans (same_updPart _ p _)).before (effect_windowCheck p _ _ _ _ _ _)).then
          (same_finishWriteByte p b _ _)
      · exact ((same_beginHold p s).before (effect_writeDataChecks p _ _ _)).then (same_finishWriteByte p b none _)

theorem effect_readChecks (p : Port) (s : State) : Effect s (readChecks p s).1 := by
  unfold readChecks
  split
  · exact .refl s
  · exact effect_andCheck (effect_windowCheck p _ _ _ _ _ s) fun t => effect_lengthCheck p _ _ _ _ _ t

theorem effect_requestByte (p : Port) (g : SegId) (first : Bool) (s : State) :
    Effect s (requestByte p g first s) := by
  have h := (same_beginHold p s).before (effect_readChecks p _)
  unfold requestByte
  dsimp only
  split
  · split
    · exact h.then (same_updSeg _ g _)
    · exact h.then (same_finishCut p g _)
  · exact h.then ((same_clockNinth g .ack _).trans (same_updSeg _ g _))

theorem effect_addressAcknowledged (p : Port) (g : SegId) (s : State) :
    Effect s (addressAcknowledged p g s) := by
  have h : Same s (match Decision.entry? (s.part p).decision with
      | some i => countHit p i s
      | none => s) := by
    split
    · exact same_updAccount s _ _ _ fun _ => rfl
    · exact Same.rfl' s
  have h := h.trans ((same_updSeg _ g fun c => { c with act := none }).trans (same_releaseWith p .ack _))
  unfold addressAcknowledged
  dsimp only
  split
  · split
    · exact .same (h.trans ((same_setSessionState _ p .write).trans (same_updSession _ p _ rfl)))
    · exact .same (h.trans (same_setSessionState _ p .write))
  · exact (h.trans ((same_setSessionState _ p .read).trans (same_updUpi _ p _))).before
      (effect_requestByte p g true _)

end Sys2Proof.Machine
end

