-- ==== Sys2Proof/Laws/Execution.lean ====
section
/-!
SUPPORT. Every command but the four of a reset is made of the effects of Effects.lean, and every command answers a next
state.
-/

namespace Sys2Proof.Machine

/-! ## The Bank Controller -/

theorem effect_completeValidation (s : State) : Effect s (completeValidation s) := by
  unfold completeValidation
  split
  · exact .refl s
  · rename_i h
    split
    · exact .fail _ _ s h
    · rename_i hv
      exact .swap _ s h hv

theorem effect_completeReloadJob (p : Port) (s : State) : Effect s (completeReloadJob p s) := by
  unfold completeReloadJob
  split
  · exact .finish p .ok [] (by decide) s
  · exact .refl s

theorem effect_completeReload (s : State) : Effect s (completeReload s) := by
  unfold completeReload
  split
  · rename_i h
    exact ((Effect.reload s h).trans (effect_completeReloadJob .up0 _)).trans (effect_completeReloadJob .up1 _)
  · exact .refl s

theorem effect_beginReload (s : State) (he : s.bc.shadow = .editable) : Effect s (beginReload s) := by
  refine .stage _ s he rfl rfl (by simp) (fun hc => ?_) fun hl => ?_
  · simp [hc]
  · simp [hl]

/-! ## Commands -/

theorem same_startIdle (s : State) : Same s (startIdle s) := same_setIdle s _

theorem same_touchIdle (p : Port) (s : State) : Same s (touchIdle p s) := by
  unfold touchIdle
  split
  · exact same_startIdle s
  · exact Same.rfl' s

theorem effect_openSession (p : Port) (s : State) : Effect s (openSession p s) := by
  unfold openSession
  split
  · split
    · exact (same_startIdle s).before (.finish p .ok [] (by decide) _)
    · exact .finish p .owned _ (by decide) s
  · exact ((same_setHolder s _).trans (same_startIdle _)).before (.finish p .ok [] (by decide) _)

theorem effect_closeSession (p : Port) (s : State) : Effect s (closeSession p s) := by
  unfold closeSession
  split
  · exact ((same_setHolder s _).trans (same_setIdle _ _)).before (.finish p .ok [] (by decide) _)
  · exact .finish p .noSession [] (by decide) s

theorem effect_readStatus (p : Port) (clear : Byte) (s : State) : Effect s (readStatus p clear s) := by
  unfold readStatus
  split
  · exact .finish p .range [] (by decide) s
  · rename_i c _
    cases c
    · exact .finish p .ok _ (by decide) s
    · exact (Effect.finish p .ok _ (by decide) s).trans (.clearFlags p _)

theorem effect_readBank (p : Port) (select : Byte) (item : Bank → Option (List Byte)) (s : State) :
    Effect s (readBank p select item s) := by
  unfold readBank
  dsimp only
  repeat' split
  all_goals exact .finish p _ _ (by decide) s

theorem effect_answerRead (p : Port) (x : Option (List Byte)) (s : State) : Effect s (answerRead p x s) := by
  unfold answerRead
  split
  all_goals exact .finish p _ _ (by decide) s

theorem effect_staged {p : Port} {take : State → State} {s : State}
    (h : s.bc.locked = false → s.bc.shadow = .editable → Effect s (take s)) : Effect s (staged p take s) := by
  unfold staged
  split
  · exact .finish p .locked [] (by decide) s
  · rename_i hl
    split
    · exact .finish p .busy [] (by decide) s
    · rename_i he
      exact h (by simpa using hl) (by simpa using he)

theorem effect_editShadow (p : Port) (edit : Option (Bank → Bank)) (s : State)
    (hf : ∀ f, edit = some f → ∀ k, BankSafe k → BankSafe (f k)) : Effect s (staged p (editShadow p edit) s) :=
  effect_staged fun hl he => by
    unfold editShadow
    split
    · exact (Effect.edit _ s (hf _ rfl) hl he).trans (.finish p .ok [] (by decide) _)
    · exact .finish p .range [] (by decide) s

theorem effect_takeReload (p : Port) (s : State) : Effect s (staged p (takeReload p) s) :=
  effect_staged fun _ he => (effect_beginReload s he).trans (.long p _ _)

theorem effect_takeCommit (p : Port) (x : Half) (s : State) : Effect s (staged p (takeCommit p x) s) :=
  effect_staged fun _ he =>
    (Effect.stage _ s he rfl rfl (by simp) (by simp) (by simp)).trans (.long p _ _)

theorem effect_takeLockdown (p : Port) (s : State) : Effect s (staged p (takeLockdown p) s) :=
  effect_staged fun _ he =>
    (Effect.stage _ s he rfl rfl (by simp) (by simp) (by simp)).trans (.finish p .ok [] (by decide) _)

theorem effect_ackViolations (p : Port) (n : Byte) (s : State) : Effect s (ackViolations p n s) :=
  (Effect.remove _ s).trans (.finish p .ok _ (by decide) _)

theorem same_clearCounters (s : State) : Same s (clearCounters s) :=
  ⟨rfl, rfl, rfl, rfl, fun _ => rfl, rfl, rfl, fun k i => by
    by_cases e : k = s.bc.active
    · subst e
      simp [clearCounters, clearCounts]
    · simp [clearCounters, e], rfl, rfl, rfl, rfl, rfl⟩

theorem effect_writeSettings (p : Port) (record : List Byte) (s : State) : Effect s (writeSettings p record s) := by
  unfold writeSettings
  split
  · rename_i r h
    exact (Effect.settings record r h s).trans (.finish p .ok [] (by decide) _)
  · exact .finish p .range [] (by decide) s

theorem effect_onSegment {p : Port} {b : Byte} {take : SegId → State → State} {s : State}
    (h : ∀ g, Effect s (take g s)) : Effect s (onSegment p b take s) := by
  unfold onSegment
  split
  · exact h _
  · exact .finish p .range [] (by decide) s

theorem effect_disableSegment (p : Port) (g : SegId) (s : State) : Effect s (disableSegment p g s) := by
  have h := effect_applyDisable g s
  unfold disableSegment
  split
  · exact h.trans (.finish p .ok [] (by decide) _)
  · exact h.trans (.finish p .ok [] (by decide) _)
  · exact h.trans (.finish p .ok [] (by decide) _)
  · exact h.trans (.long p _ _)
  · exact h.trans (.long p _ _)

theorem effect_enableSegment (p : Port) (g : SegId) (s : State) : Effect s (enableSegment p g s) := by
  unfold enableSegment
  split
  · exact (same_startClose g s).before (.long p _ _)
  · exact .finish p .state [] (by decide) s

theorem effect_reopenSegment (p : Port) (g : SegId) (s : State) : Effect s (reopenSegment p g s) := by
  unfold reopenSegment
  split
  · exact (same_startClose g s).before (.long p _ _)
  · exact .finish p .state [] (by decide) s

theorem same_choice (s : State) (n : Nat) : Same s { s with choice := n } :=
  ⟨rfl, rfl, rfl, rfl, fun _ => rfl, rfl, rfl, fun _ _ => rfl, rfl, rfl, rfl, rfl, rfl⟩

theorem effect_abortSessions (s : State) : Effect s (abortSessions s) := by
  unfold abortSessions
  split
  · split
    · exact ((same_choice s _).before (effect_abortSession .up0 _)).trans (effect_abortSession .up1 _)
    · exact ((same_choice s _).before (effect_abortSession .up1 _)).trans (effect_abortSession .up0 _)
  · exact (effect_abortSession .up0 s).trans (effect_abortSession .up1 _)

theorem effect_abortAllParts (p : Port) (s : State) : Effect s (abortAllParts p s) := by
  unfold abortAllParts
  split
  · exact (effect_abortSessions s).trans (.finish p .ok _ (by decide) _)
  · exact (effect_abortSessions s).trans (.long p _ _)

theorem effect_perform (p : Port) (c : MgmtCommand) (args : List Byte) (s : State) :
    Effect s (perform p c args s) := by
  unfold perform
  cases c
  · exact effect_openSession p s
  · exact effect_closeSession p s
  · exact effect_readStatus p _ s
  · exact .finish p .ok _ (by decide) s
  · exact .finish p .ok _ (by decide) s
  · exact .finish p .ok _ (by decide) s
  · exact effect_readBank p _ _ s
  · exact effect_readBank p _ _ s
  · exact effect_readBank p _ _ s
  · exact effect_answerRead p _ s
  · exact effect_answerRead p _ s
  · exact effect_editShadow p _ s fun _ h => headerEdit_safe h
  · exact effect_editShadow p _ s fun _ h => entryEdit_safe h
  · exact effect_editShadow p _ s fun _ h => clearEdit_safe h
  · exact effect_editShadow p _ s fun _ h => windowEdit_safe h
  · exact effect_takeReload p s
  · exact effect_takeCommit p _ s
  · exact effect_takeLockdown p s
  · exact effect_ackViolations p _ s
  · exact (same_clearCounters s).before (.finish p .ok [] (by decide) _)
  · exact effect_writeSettings p args s
  · exact effect_onSegment fun g => effect_disableSegment p g s
  · exact effect_onSegment fun g => effect_enableSegment p g s
  · exact effect_onSegment fun g => effect_reopenSegment p g s
  · exact effect_abortAllParts p s

theorem effect_runCommand (p : Port) (c : MgmtCommand) (args : List Byte) (s : State) :
    Effect s (runCommand p c args s) := by
  have h := same_touchIdle p s
  unfold runCommand
  split
  · dsimp only
    split
    · exact h.before (.finish p .noSession [] (by decide) _)
    · exact h.before (effect_perform p c args _)
  · exact .finish p .badLength [] (by decide) s

theorem effect_viaFrame (p : Port) (c : MgmtCommand) (args : List Byte) (s : State) :
    Effect s (viaFrame p c args s) := by
  unfold viaFrame
  split
  · exact effect_runCommand p c args s
  · exact .refl s

/-! ## Frames -/

theorem effect_frameOutcome (p : Port) (r : Parser) (s : State) : Effect s (frameOutcome p r s) := by
  unfold frameOutcome
  split
  · exact .refl s
  · exact .refl s
  · exact .finish p .badLength [] (by decide) s
  · exact .finish p .badLength [] (by decide) s
  · exact .finish p .badLength [] (by decide) s
  · exact .finish p .badLength [] (by decide) s
  · split
    · unfold runFrame
      split
      · exact effect_runCommand p _ _ s
      · exact .finish p .badCommand [] (by decide) s
    · exact (same_updPortCounters s p _).before (.finish p .badCrc [] (by decide) _)

theorem effect_endPartFrame (p : Port) (s : State) : Effect s (endPartFrame p s) := by
  have h := same_updParser s p fun _ => freshParser
  unfold endPartFrame endFrame
  split
  · exact h.before (effect_frameOutcome p _ _)
  · exact .refl s

/-! ## Upstream events -/

theorem same_receiveByteNext (p : Port) (s : State) : Same s (receiveByteNext p s) := same_updUpi s p _

theorem effect_restartPart (p : Port) (s : State) : Effect s (restartPart p s) :=
  (effect_endPartFrame p s).then
    ((same_updSession _ p (fun e => { e with state := .address, part := noPart }) rfl).trans
      ((same_setReadback _ p []).trans (same_receiveByteNext p _)))

theorem effect_takeRestart (p : Port) (s : State) : Effect s (takeRestart p s) := by
  unfold takeRestart
  split
  · exact effect_restartPart p s
  · exact .refl s

theorem effect_takeStart (p : Port) (s : State) : Effect s (takeStart p s) := by
  unfold takeStart
  split
  · exact .same ((same_updSession s p _ rfl).trans (same_receiveByteNext p _))
  · exact effect_takeRestart p s

theorem releaseBank_bank (p : Port) (s : State) : ((releaseBank p s).session.get p).bank = none := by
  unfold releaseBank
  split
  · assumption
  · simp

theorem same_closeRecord (p : Port) (s : State) (h : (s.session.get p).bank = none) : Same s (closeRecord p s) :=
  (same_updSession s p (fun _ => idleSession) (by rw [h]; rfl)).trans
    ((same_updUpi _ p _).trans (same_setReadback _ p []))

theorem effect_stopSession (p : Port) (s : State) : Effect s (stopSession p s) := by
  have h := same_releaseSegment p s
  exact (((h.before (effect_endPartFrame p _)).trans (.release p _))).then
    (same_closeRecord p _ (releaseBank_bank p _))

theorem effect_takeStop (p : Port) (s : State) : Effect s (takeStop p s) := by
  unfold takeStop
  split
  · exact effect_stopSession p s
  · exact .refl s

theorem effect_takeAddressByte (p : Port) (b : Byte) (s : State) : Effect s (takeAddressByte p b s) := by
  unfold takeAddressByte firstAddressByte
  split
  · split
    · exact effect_tenBitWriteSecond p _ b s
    · dsimp only
      split
      · split
        · exact (effect_beginPart p b s).trans (effect_tenBitWriteFirst p b _)
        · exact (effect_beginPart p b s).trans (effect_tenBitRead p b _)
      · exact (effect_beginPart p b s).trans (effect_sevenBitAddress p b _)
  · exact .refl s

theorem effect_takeDataByte (p : Port) (b : Byte) (s : State) : Effect s (takeDataByte p b s) := by
  unfold takeDataByte
  split
  · split
    · exact effect_relayWriteByte p b s
    · exact .same ((same_countWriteByte p s).trans (same_driveNinth p .nack _))
    · exact .same (((same_updParser s p _).trans (same_driveNinth p _ _)).trans (same_countWriteByte p _))
    all_goals exact .refl s
  · exact .refl s

theorem effect_askNext (p : Port) (s : State) : Effect s (askNext p s) := by
  unfold askNext
  split
  · split
    · exact effect_requestByte p _ false s
    · exact .refl s
  · exact .same (same_presentFiller p s)
  · exact .same (same_presentFiller p s)
  · exact .same (same_presentSlotByte p s)
  all_goals exact .refl s

theorem effect_endRead (p : Port) (s : State) : Effect s (endRead p s) := by
  unfold endRead
  dsimp only
  split
  · split
    · exact .same ((same_clockNinth _ .nack s).trans (same_updUpi _ p _))
    · exact .refl s
  · exact .same (same_updUpi s p _)
  · exact .same ((same_countByte p s).trans (same_updUpi _ p _))
  · exact .same (same_updUpi s p _)
  all_goals exact .refl s

theorem effect_takeReadNinth {p : Port} {act : State → State} {s : State} (h : Effect s (act s)) :
    Effect s (takeReadNinth p act s) := by
  unfold takeReadNinth
  split
  · split
    · exact h
    · exact .same (same_countByte p s)
    all_goals exact .refl s
  · exact .refl s

theorem same_restartAbandon (p : Port) (s : State) : Same s (restartAbandon p s) := by
  unfold restartAbandon
  split
  · exact same_updSession s p _ rfl
  · exact Same.rfl' s

/-! ## Target events -/

theorem effect_forOwner {g : SegId} {act : Port → State → State} {s : State} (h : ∀ p, Effect s (act p s)) :
    Effect s (forOwner g act s) := by
  unfold forOwner
  split
  · split
    · exact h _
    · exact .refl s
  · exact .refl s

theorem effect_takeAddressAnswer (g : SegId) (a : Ack) (s : State) : Effect s (takeAddressAnswer g a s) :=
  effect_forOwner fun p => by
    split
    · exact .same (same_endWithNack p s)
    · exact .same (same_updSeg s g _)
    · exact effect_addressAcknowledged p g s
    · exact .refl s

theorem effect_takeWriteAnswer (g : SegId) (a : Ack) (s : State) : Effect s (takeWriteAnswer g a s) :=
  effect_forOwner fun p => by
    split
    · exact .same (same_endWithNack p s)
    · exact .same (same_updSeg s g _)
    · exact .same ((same_updSeg s g _).trans ((same_releaseWith p .ack _).trans (same_writeAcknowledged p _)))
    · exact .refl s

theorem effect_takeReadByte (g : SegId) (b : Byte) (s : State) : Effect s (takeReadByte g b s) :=
  effect_forOwner fun p => by
    split
    · exact .same (same_receiveByte p g b _ s)
    · exact .refl s

/-! ## Timers -/

theorem effect_takeWaitExpiry (p : Port) (s : State) : Effect s (takeWaitExpiry p s) := by
  unfold takeWaitExpiry
  split
  · exact effect_refuseWaiting p _ s
  · exact .refl s

theorem effect_takeStretchExpiry (p : Port) (s : State) : Effect s (takeStretchExpiry p s) := by
  have h := (effect_answerPart p .targetTimeout s).then (same_giveUpSegment p _)
  unfold takeStretchExpiry
  split
  · split
    · exact effect_refuseWaiting p _ s
    · exact h
    · exact h
    · exact h
    all_goals exact .refl s
  · exact .refl s

theorem effect_recordAbandoned (p : Port) (s : State) : Effect s (recordAbandoned p s) := by
  unfold recordAbandoned
  split
  all_goals first
    | exact .refl s
    | (split
       · exact effect_makeRecord p _ _ _ s
       · exact .refl s)

theorem effect_abandonSession (p : Port) (s : State) : Effect s (abandonSession p s) := by
  have h1 := same_giveUpSegment p s
  have h2 := (effect_recordAbandoned p (giveUpSegment p s)).then (same_updPortCounters _ p
    fun c => { c with abandoned := satInc c.abandoned })
  exact ((((h1.before h2).trans (effect_endPartFrame p _)).trans (.release p _))).then
    (same_closeRecord p _ (releaseBank_bank p _))

theorem effect_takeAbandonExpiry (p : Port) (s : State) : Effect s (takeAbandonExpiry p s) := by
  unfold takeAbandonExpiry
  split
  · exact effect_abandonSession p s
  · exact .refl s

theorem effect_takeHoldExpiry (g : SegId) (s : State) : Effect s (takeHoldExpiry g s) := by
  unfold takeHoldExpiry
  split
  · exact effect_enterQuarantine g _ s
  · exact .refl s

theorem effect_takeRefillTick (s : State) : Effect s (takeRefillTick s) := by
  unfold takeRefillTick
  split
  · exact .refill s
  · exact .refl s

theorem effect_takeIdleExpiry (s : State) :
    Effect s (takeIdleExpiry s) := by
  have h := (same_setHolder s none).trans (same_setIdle _ none)
  unfold takeIdleExpiry expireSession discardEdits
  split
  · split
    · rename_i he
      exact h.before (effect_beginReload _ he.1)
    · exact .same h
  · exact .refl s

/-! ## Segment events -/

theorem same_afterScl (g : SegId) (l : Level) (s : State) : Same s (afterScl g l s) := by
  cases l
  · exact same_closeStep g _ s
  · exact same_closeStep g _ s

theorem effect_takeSclReleased (g : SegId) (l : Level) (s : State) : Effect s (takeSclReleased g l s) := by
  unfold takeSclReleased
  split
  · exact .same (same_afterScl g l s)
  · exact .refl s

theorem effect_takeRecoveryPulse (g : SegId) (l : Level) (s : State) : Effect s (takeRecoveryPulse g l s) := by
  have h := same_updSeg s g fun c => { c with pulses := c.pulses + 1 }
  unfold takeRecoveryPulse afterPulse
  dsimp only
  split
  · split
    · exact .same (h.trans (same_closeStep g _ _))
    · split
      · exact .same (h.trans (same_closeStep g _ _))
      · exact h.before (effect_enterQuarantine g _ _)
  · exact .refl s

theorem effect_takeCloseStop (g : SegId) (r : CloseStopResult) (s : State) : Effect s (takeCloseStop g r s) := by
  unfold takeCloseStop afterCloseStop
  split
  · split
    · split
      · exact effect_settleSegment g s
      · exact (same_updSegCounters s g _).before (effect_settleSegment g _)
    · split
      · exact .same (same_closeStep g _ s)
      · exact effect_enterQuarantine g _ s
  · exact .refl s

theorem effect_settleRelease (g : SegId) (r : StopResult) (s : State) : Effect s (settleRelease g r s) := by
  cases r
  · exact effect_settleSegment g s
  · exact .same (same_startClose g s)
  · exact .same (same_startClose g s)

theorem effect_takeReleaseStop (g : SegId) (r : StopResult) (s : State) : Effect s (takeReleaseStop g r s) := by
  unfold takeReleaseStop afterRelease
  split
  · exact (same_updSeg s g _).before ((effect_settleRelease g r _).trans (effect_takeAllDeferred g _ _))
  · exact .refl s

theorem effect_takeForeign (g : SegId) (k : ForeignKind) (s : State) : Effect s (takeForeign g k s) := by
  unfold takeForeign
  split
  · exact effect_enterQuarantine g _ s
  · exact .refl s

theorem effect_loseSegment (p : Port) (g : SegId) (s : State) : Effect s (loseSegment p g s) := by
  have h := same_loseOwnership p s
  unfold loseSegment
  dsimp only
  split
  · split
    · exact ((h.trans (same_choice _ _)).before (effect_answerPart p _ _)).trans (effect_enterQuarantine g _ _)
    · exact ((h.trans (same_choice _ _)).before (effect_enterQuarantine g _ _)).trans (effect_answerPart p _ _)
  · exact (h.before (effect_answerPart p _ _)).trans (effect_enterQuarantine g _ _)

theorem effect_takeLoss (g : SegId) (s : State) : Effect s (takeLoss g s) := by
  unfold takeLoss
  split
  · exact effect_forOwner fun p => effect_loseSegment p g s
  · exact .refl s

/-! ## Every command -/

theorem effect_inService {f : State → State} {s : State} (h : s.phase = .inService → Effect s (f s)) :
    Effect s (inService f s) := by
  unfold inService
  split
  · rename_i hp
    exact h hp
  · exact .refl s

/-- Every command answers a next state. -/
theorem exec_next (c : Instr) (s : State) : ∃ t, exec c s = .next t := by
  cases c <;> exact ⟨_, rfl⟩

/-- A command that is not one of a reset is made of the effects. -/
theorem exec_effect (c : Instr) (s t : State) (h : exec c s = .next t) (hc : resetCommand c = false) :
    Effect s t := by
  have e : ∀ {u}, exec c s = .next u → t = u := fun h' => by rw [h] at h'; exact Host.Outcome.next.inj h'
  cases c
  case start p => exact e rfl ▸ effect_inService fun _ => effect_takeStart p s
  case repeatedStart p => exact e rfl ▸ effect_inService fun _ => effect_takeRestart p s
  case stop p => exact e rfl ▸ effect_inService fun _ => effect_takeStop p s
  case addressByte p b => exact e rfl ▸ effect_inService fun _ => effect_takeAddressByte p b s
  case dataByte p b => exact e rfl ▸ effect_inService fun _ => effect_takeDataByte p b s
  case upstreamReadAck p =>
    exact e rfl ▸ effect_inService fun _ => effect_takeReadNinth (effect_askNext p s)
  case upstreamReadNack p =>
    exact e rfl ▸ effect_inService fun _ => effect_takeReadNinth (effect_endRead p s)
  case targetAddressAnswer g a => exact e rfl ▸ effect_inService fun _ => effect_takeAddressAnswer g a s
  case targetWriteAnswer g a => exact e rfl ▸ effect_inService fun _ => effect_takeWriteAnswer g a s
  case readByteReceived g b => exact e rfl ▸ effect_inService fun _ => effect_takeReadByte g b s
  case waitTimerExpiry p => exact e rfl ▸ effect_inService fun _ => effect_takeWaitExpiry p s
  case stretchTimerExpiry p => exact e rfl ▸ effect_inService fun _ => effect_takeStretchExpiry p s
  case abandonTimerExpiry p => exact e rfl ▸ effect_inService fun _ => effect_takeAbandonExpiry p s
  case holdTimerExpiry g => exact e rfl ▸ effect_inService fun _ => effect_takeHoldExpiry g s
  case refillTick => exact e rfl ▸ effect_inService fun _ => effect_takeRefillTick s
  case idleTimerExpiry => exact e rfl ▸ effect_inService fun _ => effect_takeIdleExpiry s
  case closeSclReleased g l => exact e rfl ▸ effect_inService fun _ => effect_takeSclReleased g l s
  case recoveryPulse g l => exact e rfl ▸ effect_inService fun _ => effect_takeRecoveryPulse g l s
  case closeStopEnd g r => exact e rfl ▸ effect_inService fun _ => effect_takeCloseStop g r s
  case releaseStopResult g r => exact e rfl ▸ effect_inService fun _ => effect_takeReleaseStop g r s
  case foreignCondition g k => exact e rfl ▸ effect_inService fun _ => effect_takeForeign g k s
  case loss g k => exact e rfl ▸ effect_inService fun _ => effect_takeLoss g s
  case validationCompletion => exact e rfl ▸ effect_inService fun _ => effect_completeValidation s
  case reloadCompletion => exact e rfl ▸ effect_inService fun _ => effect_completeReload s
  case upstreamSclEdge p k => exact e rfl ▸ effect_inService fun _ => .same (same_restartAbandon p s)
  all_goals first
    | exact absurd hc Bool.noConfusion
    | exact e rfl ▸ effect_inService fun _ => effect_viaFrame _ _ _ s

end Sys2Proof.Machine
end

