-- ==== Sys2Proof/Laws/Seats.lean ====
section
/-!
SUPPORT. Who owns which segment and who waits for it: `Ebb` says that from one state to another ownership is only given up
and waiter lists only lose ports. All operations but a grant and an entry in a waiter list are of that kind.
-/

namespace Sys2Proof.Machine

/-- Owners and waiters are where they may be. -/
def Seats (s : State) : Prop := OwnersSafe s ∧ WaitersSafe s

/-- A port seeks no segment. -/
def NotWaiting (p : Port) (s : State) : Prop := ∀ g, p ∉ (s.seg.get g).seekers

/-- No session owns a segment, and nothing waits there for the STOP of a release. -/
def Unowned (g : SegId) (s : State) : Prop :=
  (∀ p, (s.session.get p).owned ≠ some g) ∧ (s.seg.get g).deferred = []

/-- Ownership is only given up, segments only lose the ports that seek them, the ports that still seek one are left alone,
and where something waits for the STOP of a release the segment is being released. -/
structure Ebb (s t : State) : Prop where
  owned : ∀ p g, (t.session.get p).owned = some g →
    (s.session.get p).owned = some g ∧ (t.seg.get g).state = (s.seg.get g).state ∧
      (t.seg.get g).owner = (s.seg.get g).owner
  waiters : ∀ g, (t.seg.get g).seekers.Sublist (s.seg.get g).seekers
  waiting : ∀ p g, p ∈ (t.seg.get g).seekers →
    (t.session.get p).state = (s.session.get p).state ∧ (t.part p).segment = (s.part p).segment ∧
      (t.session.get p).owned = (s.session.get p).owned
  window : ∀ g, (t.seg.get g).deferred ≠ [] →
    ((s.seg.get g).deferred ≠ [] ∧ (t.seg.get g).state = (s.seg.get g).state ∧
      (t.seg.get g).owner = (s.seg.get g).owner) ∨ ((t.seg.get g).state = .owned ∧ (t.seg.get g).owner = none)

theorem Ebb.refl (s : State) : Ebb s s :=
  ⟨fun _ _ h => ⟨h, rfl, rfl⟩, fun _ => List.Sublist.refl _, fun _ _ _ => ⟨rfl, rfl, rfl⟩, fun _ h => .inl ⟨h, rfl, rfl⟩⟩

theorem Ebb.trans {s t u : State} (h : Ebb s t) (h' : Ebb t u) : Ebb s u where
  owned p g e := by
    obtain ⟨a, b, c⟩ := h'.owned p g e
    obtain ⟨a', b', c'⟩ := h.owned p g a
    exact ⟨a', b.trans b', c.trans c'⟩
  waiters g := (h'.waiters g).trans (h.waiters g)
  waiting p g e := by
    obtain ⟨a, b, c⟩ := h'.waiting p g e
    obtain ⟨a', b', c'⟩ := h.waiting p g ((h'.waiters g).subset e)
    exact ⟨a.trans a', b.trans b', c.trans c'⟩
  window g e := by
    rcases h'.window g e with ⟨a, b, c⟩ | x
    · rcases h.window g a with ⟨a', b', c'⟩ | y
      · exact .inl ⟨a', b.trans b', c.trans c'⟩
      · exact .inr ⟨b.trans y.1, c.trans y.2⟩
    · exact .inr x

theorem Ebb.seats {s t : State} (h : Ebb s t) (hs : Seats s) : Seats t := by
  refine ⟨fun p g e => ?_, fun p g e => ?_, fun g => (hs.2.2.1 g).sublist (h.waiters g), fun g e => ?_⟩
  · obtain ⟨a, b, c⟩ := h.owned p g e
    rw [b, c]
    exact hs.1 p g a
  · obtain ⟨a, b, c⟩ := h.waiting p g e
    rw [a, b, c]
    exact hs.2.1 p g ((h.waiters g).subset e)
  · rcases h.window g e with ⟨a, b, c⟩ | x
    · rw [b, c]
      exact hs.2.2.2 g a
    · exact x

theorem Ebb.notWaiting {s t : State} {p : Port} (h : Ebb s t) (hn : NotWaiting p s) : NotWaiting p t :=
  fun g e => hn g ((h.waiters g).subset e)

theorem Ebb.unowned {s t : State} {g : SegId} (h : Ebb s t) (hu : Unowned g s)
    (hd : (t.seg.get g).deferred = (s.seg.get g).deferred) : Unowned g t :=
  ⟨fun p e => hu.1 p (h.owned p g e).1, hd.trans hu.2⟩

theorem Ebb.none {s t : State} {p : Port} (h : Ebb s t) (hn : (s.session.get p).owned = none) :
    (t.session.get p).owned = none := by
  cases e : (t.session.get p).owned with
  | none => rfl
  | some g =>
    have := (h.owned p g e).1
    rw [hn] at this
    cases this

/-! ## What the invariant gives -/

theorem Seats.notWaiting {s : State} {p : Port} (hs : Seats s) (h : (s.session.get p).state ≠ .grantWait) :
    NotWaiting p s := fun g e => h (hs.2.1 p g e).1

theorem Seats.ownerNotWaiting {s : State} {p : Port} {g : SegId} (hs : Seats s)
    (h : (s.session.get p).owned = some g) : NotWaiting p s := fun g' e => by
  have := (hs.2.1 p g' e).2.2
  rw [h] at this
  cases this

theorem Seats.unowned {s : State} {g : SegId} (hs : Seats s) (h : (s.seg.get g).state ≠ .owned) : Unowned g s :=
  ⟨fun p e => h (hs.1 p g e).1, Classical.byContradiction fun e => h (hs.2.2.2 g e).1⟩

theorem Seats.notOwned {s : State} {g : SegId} (hs : Seats s) (h : (s.seg.get g).owner = none) (p : Port) :
    (s.session.get p).owned ≠ some g := fun e => by
  have := (hs.1 p g e).2
  rw [h] at this
  cases this

theorem Seats.nothingDeferred {s : State} {p : Port} {g : SegId} (hs : Seats s)
    (h : (s.session.get p).owned = some g) : (s.seg.get g).deferred = [] :=
  Classical.byContradiction fun e => by
    have h1 := (hs.1 p g h).2
    rw [(hs.2.2.2 g e).2] at h1
    cases h1

/-! ## Updates -/

theorem ebb_of_eq {s t : State} (h : t.session = s.session) (h' : t.seg = s.seg) : Ebb s t where
  owned p g e := by rw [h] at e; rw [h']; exact ⟨e, rfl, rfl⟩
  waiters g := by rw [h']
  waiting p g _ := by unfold State.part; rw [h]; exact ⟨rfl, rfl, rfl⟩
  window g e := by rw [h'] at e ⊢; exact .inl ⟨e, rfl, rfl⟩

theorem ebb_updUpi (s : State) (p : Port) (f : Upi → Upi) : Ebb s (s.updUpi p f) := ebb_of_eq rfl rfl
theorem ebb_updAccount (s : State) (k : BankId) (i : EntryIdx) (f : EntryAccount → EntryAccount) :
    Ebb s (s.updAccount k i f) := ebb_of_eq rfl rfl
theorem ebb_updParser (s : State) (p : Port) (f : Parser → Parser) : Ebb s (s.updParser p f) := ebb_of_eq rfl rfl
theorem ebb_updBc (s : State) (f : BankController → BankController) : Ebb s (s.updBc f) := ebb_of_eq rfl rfl
theorem ebb_setReadback (s : State) (p : Port) (l : List Byte) : Ebb s (s.setReadback p l) := ebb_of_eq rfl rfl

/-- A session update that keeps state, named segment and owned segment. -/
theorem ebb_updSession (s : State) (p : Port) (f : Session → Session)
    (h : (f (s.session.get p)).state = (s.session.get p).state)
    (h' : (f (s.session.get p)).part.segment = (s.session.get p).part.segment)
    (h'' : (f (s.session.get p)).owned = (s.session.get p).owned) : Ebb s (s.updSession p f) where
  owned q g e := by
    by_cases eq : q = p
    · subst eq
      simp [h''] at e
      exact ⟨e, rfl, rfl⟩
    · simp [eq] at e
      exact ⟨e, rfl, rfl⟩
  waiters g := List.Sublist.refl _
  waiting q g _ := by
    by_cases eq : q = p
    · subst eq
      simp [State.part, h, h', h'']
    · simp [State.part, eq]
  window g e := .inl ⟨e, rfl, rfl⟩

/-- A session update of a port that waits nowhere and keeps or gives up its segment. -/
theorem ebb_updFree (s : State) (p : Port) (f : Session → Session) (hn : NotWaiting p s)
    (h : (f (s.session.get p)).owned = (s.session.get p).owned ∨ (f (s.session.get p)).owned = none) :
    Ebb s (s.updSession p f) where
  owned q g e := by
    by_cases eq : q = p
    · subst eq
      rcases h with h | h
      · simp [h] at e
        exact ⟨e, rfl, rfl⟩
      · simp [h] at e
    · simp [eq] at e
      exact ⟨e, rfl, rfl⟩
  waiters g := List.Sublist.refl _
  waiting q g e := by
    by_cases eq : q = p
    · subst eq
      exact absurd e (hn g)
    · simp [State.part, eq]
  window g e := .inl ⟨e, rfl, rfl⟩

theorem ebb_updPart (s : State) (p : Port) (f : Part → Part) (h : (f (s.part p)).segment = (s.part p).segment) :
    Ebb s (s.updPart p f) := ebb_updSession s p _ rfl h rfl

theorem seekers_sublist {c d : Segment} (h : d.waiters.Sublist c.waiters) (h' : d.deferred.Sublist c.deferred) :
    d.seekers.Sublist c.seekers := h.append (h'.filterMap _)

/-- A segment update that keeps state and owner, and keeps what seeks it or loses some. -/
theorem ebb_updSeg (s : State) (g : SegId) (f : Segment → Segment)
    (h : (f (s.seg.get g)).state = (s.seg.get g).state) (h' : (f (s.seg.get g)).owner = (s.seg.get g).owner)
    (h'' : (f (s.seg.get g)).waiters.Sublist (s.seg.get g).waiters)
    (hd : (f (s.seg.get g)).deferred.Sublist (s.seg.get g).deferred := by exact List.Sublist.refl _) :
    Ebb s (s.updSeg g f) where
  owned q l e := by
    by_cases eq : l = g
    · subst eq
      simpa [h, h'] using e
    · simpa [eq] using e
  waiters l := by
    by_cases eq : l = g
    · subst eq
      simpa using seekers_sublist h'' hd
    · simp [eq]
  waiting q l _ := ⟨rfl, rfl, rfl⟩
  window l e := by
    by_cases eq : l = g
    · subst eq
      simp at e
      refine .inl ⟨fun x => e ?_, by simpa using h, by simpa using h'⟩
      rw [x] at hd
      exact List.sublist_nil.mp hd
    · exact .inl (by simpa [eq] using e)

/-- An update of a segment that no session owns and where nothing is deferred, which keeps its waiters or loses some. -/
theorem ebb_updUnowned (s : State) (g : SegId) (f : Segment → Segment) (hu : Unowned g s)
    (h : (f (s.seg.get g)).waiters.Sublist (s.seg.get g).waiters)
    (hd : (f (s.seg.get g)).deferred.Sublist (s.seg.get g).deferred := by exact List.Sublist.refl _) :
    Ebb s (s.updSeg g f) where
  owned q l e := by
    by_cases eq : l = g
    · subst eq
      exact absurd e (hu.1 q)
    · simpa [eq] using e
  waiters l := by
    by_cases eq : l = g
    · subst eq
      simpa using seekers_sublist h hd
    · simp [eq]
  waiting q l _ := ⟨rfl, rfl, rfl⟩
  window l e := by
    by_cases eq : l = g
    · subst eq
      simp at e
      rw [hu.2] at hd
      exact absurd (List.sublist_nil.mp hd) e
    · exact .inl (by simpa [eq] using e)

/-! ## Records, holds, counts -/

theorem ebb_makeRecord (p : Port) (r : Reason) (o : RecordOutcome) (x : Option Half) (s : State) :
    Ebb s (makeRecord p r o x s) := by
  have h (v : Violation) : Ebb s (appendViolation v s) := by
    unfold appendViolation
    split <;> exact ebb_of_eq (by simp [evalAlerts, evalAlert, latchOverflow]) (by simp [evalAlerts, evalAlert, latchOverflow])
  unfold makeRecord
  split
  · exact .refl s
  · exact (h _).trans (ebb_updPart _ p _ rfl)

theorem ebb_beginHold (p : Port) (s : State) : Ebb s (beginHold p s) :=
  (ebb_updUpi s p _).trans (ebb_updSession _ p _ rfl rfl rfl)

theorem ebb_releaseHold (p : Port) (s : State) : Ebb s (releaseHold p s) := by
  unfold releaseHold
  split
  · exact (ebb_updUpi s p _).trans (ebb_updSession _ p _ rfl rfl rfl)
  · exact .refl s

theorem ebb_releaseWith (p : Port) (a : Ack) (s : State) : Ebb s (releaseWith p a s) :=
  (ebb_updUpi s p _).trans (ebb_releaseHold p _)

theorem ebb_presentByte (p : Port) (b : Byte) (s : State) : Ebb s (presentByte p b s) := ebb_updUpi s p _

theorem ebb_countByte (p : Port) (s : State) : Ebb s (countByte p s) := ebb_updPart s p _ rfl

theorem ebb_presentFiller (p : Port) (s : State) : Ebb s (presentFiller p s) :=
  (ebb_presentByte p _ s).trans (ebb_countByte p _)

theorem ebb_countWriteByte (p : Port) (s : State) : Ebb s (countWriteByte p s) := by
  unfold countWriteByte
  exact ebb_updPart s p _ rfl

theorem ebb_enterDiscard (p : Port) (s : State) (h : NotWaiting p s) : Ebb s (enterDiscard p s) :=
  (ebb_updFree s p _ h (Or.inl rfl)).trans (ebb_updUpi _ p _)

theorem ebb_setSessionState (s : State) (p : Port) (t : SessionState) (h : NotWaiting p s) :
    Ebb s (s.setSessionState p t) := ebb_updFree s p _ h (Or.inl rfl)

theorem ebb_loseOwnership (p : Port) (s : State) (h : NotWaiting p s) : Ebb s (loseOwnership p s) :=
  ebb_updFree s p _ h (Or.inr rfl)

theorem ebb_refuseAddress (p : Port) (r : Reason) (x : Option Half) (s : State) (h : NotWaiting p s) :
    Ebb s (refuseAddress p r x s) := by
  have e := ((ebb_makeRecord p r .refused x s).trans
    (ebb_updPart _ p (fun t => { t with decision := some (.refused r) }) rfl)).trans (ebb_releaseWith p .nack _)
  exact e.trans (ebb_enterDiscard p _ (e.notWaiting h))

/-! ## Waiter lists -/

theorem ebb_withdraw (p : Port) (s : State) : Ebb s (withdraw p s) := by
  unfold withdraw
  split
  · exact ebb_updSeg s _ _ rfl rfl List.erase_sublist List.erase_sublist
  · exact .refl s

/-- A port that seeks once does not seek after its request is withdrawn. -/
theorem notMem_eraseRequest (p : Port) (l : List Deferred) (h : (l.filterMap Deferred.port?).Nodup) :
    .request p ∉ l.erase (.request p) := by
  induction l with
  | nil => simp
  | cons d l ih =>
    by_cases e : d = .request p
    · subst e
      simp only [List.erase_cons_head]
      rw [List.filterMap_cons_some (f := Deferred.port?) (a := .request p) (b := p) rfl, List.nodup_cons] at h
      exact fun x => h.1 (List.mem_filterMap.mpr ⟨_, x, rfl⟩)
    · rw [List.erase_cons_tail (by simpa using e)]
      simp only [List.mem_cons, not_or]
      refine ⟨fun x => e x.symm, ih ?_⟩
      cases d with
      | disable => rwa [List.filterMap_cons_none rfl] at h
      | request q =>
        rw [List.filterMap_cons_some (f := Deferred.port?) (a := .request q) (b := q) rfl, List.nodup_cons] at h
        exact h.2

theorem notWaiting_withdraw (p : Port) (s : State) (hs : Seats s) : NotWaiting p (withdraw p s) := by
  intro g e
  have h := (hs.2.1 p g ((ebb_withdraw p s).waiters g |>.subset e)).2.1
  unfold withdraw at e
  rw [h] at e
  have hn := hs.2.2.1 g
  unfold Segment.seekers at hn
  rw [List.nodup_append] at hn
  simp [Segment.seekers, hn.1.mem_erase_iff] at e
  obtain ⟨d, hd, ed⟩ := e
  cases d with
  | disable => cases ed
  | request q =>
    cases ed
    exact notMem_eraseRequest _ _ hn.2.1 hd

theorem ebb_refuseWaiting (p : Port) (r : Reason) (s : State) (hs : Seats s) : Ebb s (refuseWaiting p r s) :=
  (ebb_withdraw p s).trans (ebb_refuseAddress p r none _ (notWaiting_withdraw p s hs))

theorem ebb_refuseAll (r : Reason) (l : List Port) (s : State) (h : ∀ p ∈ l, NotWaiting p s) :
    Ebb s (l.foldl (fun s p => refuseAddress p r none s) s) := by
  induction l generalizing s with
  | nil => exact .refl s
  | cons p l ih =>
    have e := ebb_refuseAddress p r none s (h p (by simp))
    exact e.trans (ih _ fun q hq => e.notWaiting (h q (by simp [hq])))

theorem refuseAddress_seg (p : Port) (r : Reason) (x : Option Half) (s : State) :
    (refuseAddress p r x s).seg = s.seg := by
  obtain ⟨f, a, h⟩ := refuseAddress_eq p r x s
  rw [h]

theorem refuseWaiters_deferred (g l : SegId) (s : State) :
    ((refuseWaiters g s).seg.get l).deferred = (s.seg.get l).deferred := by
  have all (w : List Port) (t : State) :
      (w.foldl (fun s p => refuseAddress p .segmentUnavailable none s) t).seg = t.seg := by
    induction w generalizing t with
    | nil => rfl
    | cons p w ih => exact (ih _).trans (refuseAddress_seg p _ _ t)
  unfold refuseWaiters
  rw [all]
  by_cases eq : l = g
  · subst eq
    simp
  · simp [eq]

theorem ebb_refuseWaiters (g : SegId) (s : State) (hs : Seats s) : Ebb s (refuseWaiters g s) := by
  refine (ebb_updSeg s g (fun c => { c with waiters := [] }) rfl rfl (List.nil_sublist _)).trans
    (ebb_refuseAll _ _ _ fun p hp l e => ?_)
  have hp' : p ∈ (s.seg.get g).seekers := List.mem_append_left _ hp
  by_cases eq : l = g
  · subst eq
    have hn := hs.2.2.1 l
    unfold Segment.seekers at hn
    simp [Segment.seekers] at e
    exact (List.nodup_append.mp hn).2.2 p hp p (List.mem_filterMap.mpr e) rfl
  · simp [eq] at e
    have h := (hs.2.1 p g hp').2.1
    have h' := (hs.2.1 p l e).2.1
    rw [h] at h'
    exact eq (Option.some.inj h').symm

/-! ## Segments -/

theorem ebb_finishCommand (p : Port) (t : Status) (l : List Byte) (s : State) : Ebb s (finishCommand p t l s) :=
  ebb_of_eq rfl rfl

theorem ebb_startLong (p : Port) (j : LongCommand) (s : State) : Ebb s (startLong p j s) := ebb_of_eq rfl rfl

theorem ebb_completeJob (g : SegId) (t : SegState) (r : QuarantineReason) (p : Port) (s : State) :
    Ebb s (completeJob g t r p s) := by
  unfold completeJob
  split
  all_goals first
    | exact .refl s
    | (split
       · first
           | exact ebb_finishCommand p _ _ s
           | (split
              · exact ebb_finishCommand p _ _ s
              · exact ebb_of_eq rfl rfl)
       · exact .refl s)

theorem ebb_completeJobs (g : SegId) (t : SegState) (r : QuarantineReason) (s : State) :
    Ebb s (completeJobs g t r s) := (ebb_completeJob g t r .up0 s).trans (ebb_completeJob g t r .up1 _)

theorem completeJobs_seg (g : SegId) (t : SegState) (r : QuarantineReason) (s : State) :
    (completeJobs g t r s).seg = s.seg := by
  have one (p : Port) (u : State) : (completeJob g t r p u).seg = u.seg := by
    unfold completeJob finishCommand
    repeat' split
    all_goals rfl
  exact (one .up1 _).trans (one .up0 s)

theorem ebb_startClose (g : SegId) (s : State) (h : Unowned g s) : Ebb s (startClose g s) :=
  ebb_updUnowned s g _ h (List.Sublist.refl _)

theorem ebb_closeStep (g : SegId) (t : CloseStep) (s : State) : Ebb s (closeStep g t s) :=
  ebb_updSeg s g _ rfl rfl (List.Sublist.refl _)

theorem ebb_enterDisabled (g : SegId) (s : State) (hs : Seats s) (h : Unowned g s) : Ebb s (enterDisabled g s) := by
  have e := ebb_refuseWaiters g s hs
  exact (e.trans (ebb_updUnowned _ g _ (e.unowned h (refuseWaiters_deferred g g s)) (List.Sublist.refl _))).trans
    (ebb_completeJobs g _ _ _)

theorem ebb_enterQuarantine (g : SegId) (r : QuarantineReason) (s : State) (hs : Seats s) (h : Unowned g s) :
    Ebb s (enterQuarantine g r s) := by
  have e (f : Segment → Segment) (hf : (f (s.seg.get g)).waiters = (s.seg.get g).waiters)
      (hd : (f (s.seg.get g)).deferred = (s.seg.get g).deferred) :
      Ebb s (latchSegmentEvent (countQuarantine g (refuseWaiters g (s.updSeg g f)))) ∧
        Unowned g (latchSegmentEvent (countQuarantine g (refuseWaiters g (s.updSeg g f)))) := by
    have e1 := ebb_updUnowned s g f h (by rw [hf]) (by rw [hd])
    have e2 := (e1.trans (ebb_refuseWaiters g _ (e1.seats hs))).trans (ebb_of_eq
      (t := latchSegmentEvent (countQuarantine g (refuseWaiters g (s.updSeg g f))))
      (by simp [latchSegmentEvent, evalAlerts, evalAlert, countQuarantine])
      (by simp [latchSegmentEvent, evalAlerts, evalAlert, countQuarantine]))
    refine ⟨e2, e2.unowned h ?_⟩
    have := refuseWaiters_deferred g g (s.updSeg g f)
    simp [latchSegmentEvent, evalAlerts, evalAlert, countQuarantine] at this ⊢
    exact this.trans hd
  unfold enterQuarantine
  dsimp only
  split
  · exact (e _ rfl rfl).1.trans (ebb_enterDisabled g _ ((e _ rfl rfl).1.seats hs) (e _ rfl rfl).2)
  · exact (e _ rfl rfl).1.trans (ebb_completeJobs g _ _ _)

theorem unowned_loseOwnership {s : State} {p : Port} {g : SegId} (hs : Seats s)
    (h : (s.session.get p).owned = some g) : Unowned g (loseOwnership p s) := by
  refine ⟨fun q e => ?_, hs.nothingDeferred h⟩
  by_cases eq : q = p
  · subst eq
    simp [loseOwnership] at e
  · simp [loseOwnership, eq] at e
    have h1 := (hs.1 p g h).2
    have h2 := (hs.1 q g e).2
    rw [h1] at h2
    exact eq (Option.some.inj h2).symm

theorem ebb_releaseSegment (p : Port) (s : State) (hs : Seats s) : Ebb s (releaseSegment p s) := by
  unfold releaseSegment
  split
  · exact .refl s
  · rename_i g h
    exact (ebb_loseOwnership p s (hs.ownerNotWaiting h)).trans
      (ebb_updUnowned _ g _ (unowned_loseOwnership hs h) (List.Sublist.refl _))

theorem ebb_giveUpSegment (p : Port) (s : State) (hs : Seats s) : Ebb s (giveUpSegment p s) := by
  unfold giveUpSegment
  split
  · exact .refl s
  · rename_i g h
    exact (ebb_loseOwnership p s (hs.ownerNotWaiting h)).trans
      (ebb_startClose g _ (unowned_loseOwnership hs h))

theorem releaseSegment_owned (p : Port) (s : State) : ((releaseSegment p s).session.get p).owned = none := by
  unfold releaseSegment
  split
  · assumption
  · simp [loseOwnership]

theorem releaseSegment_part (p : Port) (s : State) : (releaseSegment p s).part p = s.part p := by
  unfold releaseSegment
  split
  · rfl
  · simp [State.part, loseOwnership]

theorem ebb_answerPart (p : Port) (r : Reason) (s : State) (hs : Seats s) : Ebb s (answerPart p r s) := by
  have e := ebb_makeRecord p r .cut none s
  unfold answerPart
  split
  · exact ebb_refuseWaiting p r s hs
  · rename_i h
    exact ebb_refuseAddress p r none s (hs.notWaiting (by rw [h]; decide))
  · rename_i h
    have hn := hs.notWaiting (p := p) (by rw [h]; decide)
    dsimp only
    split
    · have e' := e.trans (ebb_releaseWith p .nack _)
      exact e'.trans (ebb_enterDiscard p _ (e'.notWaiting hn))
    · exact e.trans (ebb_enterDiscard p _ (e.notWaiting hn))
  · rename_i h
    have hn := hs.notWaiting (p := p) (by rw [h]; decide)
    dsimp only
    split
    · have e' := (e.trans (ebb_presentFiller p _)).trans (ebb_releaseHold p _)
      exact e'.trans (ebb_setSessionState _ p _ (e'.notWaiting hn))
    · exact e.trans (ebb_setSessionState _ p _ (e.notWaiting hn))
  all_goals exact .refl s

theorem answerPart_deferred (p : Port) (r : Reason) (g : SegId) (s : State) (h : (s.seg.get g).deferred = []) :
    ((answerPart p r s).seg.get g).deferred = (s.seg.get g).deferred := by
  have made (o : RecordOutcome) : (makeRecord p r o none s).seg = s.seg := by
    obtain ⟨f, a, e⟩ := makeRecord_eq p r o none s
    rw [e]
  unfold answerPart
  split
  · unfold refuseWaiting
    rw [refuseAddress_seg]
    unfold withdraw
    split
    · rename_i l _
      by_cases eq : g = l
      · subst eq
        simp [h]
      · simp [eq]
    · rfl
  · rw [refuseAddress_seg]
  · dsimp only
    split <;> simp [enterDiscard, releaseWith, releaseHold, driveNinth, made] <;> split <;> simp [made]
  · dsimp only
    split <;> simp [enterFill, presentFiller, presentByte, countByte, releaseHold, made] <;> split <;> simp [made]
  all_goals rfl

theorem ebb_abortSession (p : Port) (s : State) (hs : Seats s) : Ebb s (abortSession p s) := by
  have e := ebb_answerPart p .aborted s hs
  exact e.trans (ebb_giveUpSegment p _ (e.seats hs))

/-! ## Grants and requests -/

theorem ebb_driveAddress (p : Port) (g : SegId) (r : Bool) (s : State) (h : NotWaiting p s) :
    Ebb s (driveAddress p g r s) :=
  (ebb_setSessionState s p .connect h).trans (ebb_updSeg _ g _ rfl rfl (List.Sublist.refl _))

theorem grantSegment_seekers (p : Port) (g l : SegId) (s : State) (hu : Unowned g s) :
    ((grantSegment p g s).seg.get l).seekers =
      if l = g then (s.seg.get g).seekers.erase p else (s.seg.get l).seekers := by
  by_cases eq : l = g
  · subst eq
    simp [Segment.seekers, grantSegment, driveAddress, countGrant, hu.2]
  · simp [grantSegment, driveAddress, countGrant, eq]

theorem seats_grantSegment (p : Port) (g : SegId) (s : State) (hs : Seats s) (hu : Unowned g s)
    (hn : (s.session.get p).owned = none) (hw : ∀ l, l ≠ g → p ∉ (s.seg.get l).seekers) :
    Seats (grantSegment p g s) := by
  refine ⟨fun q l e => ?_, fun q l e => ?_, fun l => ?_, fun l e => ?_⟩
  · by_cases eq : q = p
    · subst eq
      simp [grantSegment, driveAddress, countGrant] at e
      subst e
      simp [grantSegment, driveAddress, countGrant]
    · simp [grantSegment, driveAddress, countGrant, eq] at e
      have hl : l ≠ g := fun h => hu.1 q (h ▸ e)
      simpa [grantSegment, driveAddress, countGrant, hl] using hs.1 q l e
  · rw [grantSegment_seekers p g l s hu] at e
    by_cases eq : l = g
    · subst eq
      rw [if_pos rfl, (hs.2.2.1 l).mem_erase_iff] at e
      simpa [grantSegment, driveAddress, countGrant, State.part, e.1] using hs.2.1 q l e.2
    · rw [if_neg eq] at e
      have hne : q ≠ p := fun h => hw l eq (h ▸ e)
      simpa [grantSegment, driveAddress, countGrant, State.part, hne] using hs.2.1 q l e
  · rw [grantSegment_seekers p g l s hu]
    split
    · exact (hs.2.2.1 g).erase p
    · exact hs.2.2.1 l
  · by_cases eq : l = g
    · subst eq
      simp [grantSegment, driveAddress, countGrant, hu.2] at e
    · simp [grantSegment, driveAddress, countGrant, eq] at e ⊢
      exact hs.2.2.2 l e

theorem seats_settleSegment (g : SegId) (s : State) (hs : Seats s) (hu : Unowned g s) : Seats (settleSegment g s) := by
  unfold settleSegment
  split
  · exact (ebb_enterDisabled g s hs hu).seats hs
  · have e : Ebb s (completeJobs g .idle .none (s.updSeg g fun c =>
        { c with state := .idle, owner := none, hold := none, act := none, ninthOwed := false })) :=
      (ebb_updUnowned s g _ hu (List.Sublist.refl _)).trans (ebb_completeJobs g _ _ _)
    unfold grantHead
    split
    · exact e.seats hs
    · rename_i p l hl
      have hs' := e.seats hs
      have hp := hs'.2.1 p g (by unfold Segment.seekers; rw [hl]; simp)
      refine seats_grantSegment p g _ hs' (e.unowned hu (by rw [completeJobs_seg]; simp)) hp.2.2 fun m hm hq => ?_
      have := (hs'.2.1 p m hq).2.1
      rw [hp.2.1] at this
      exact hm (Option.some.inj this).symm

/-- A port that seeks nothing comes to seek the segment its part names. -/
theorem seats_seek (p : Port) (g : SegId) (s : State) (f : Segment → Segment) (hs : Seats s) (hn : NotWaiting p s)
    (h1 : (s.session.get p).state = .grantWait) (h2 : (s.part p).segment = some g)
    (h3 : (s.session.get p).owned = none) (hst : (f (s.seg.get g)).state = (s.seg.get g).state)
    (how : (f (s.seg.get g)).owner = (s.seg.get g).owner)
    (hp : (f (s.seg.get g)).seekers.Perm (p :: (s.seg.get g).seekers))
    (hw : (f (s.seg.get g)).deferred ≠ [] → (s.seg.get g).state = .owned ∧ (s.seg.get g).owner = none) :
    Seats (s.updSeg g f) := by
  refine ⟨fun q l e => ?_, fun q l e => ?_, fun l => ?_, fun l e => ?_⟩
  · by_cases eq : l = g
    · subst eq
      simpa [hst, how] using hs.1 q l e
    · simpa [eq] using hs.1 q l e
  · by_cases eq : l = g
    · subst eq
      simp only [State.updSeg_seg, PerSeg.get_set, if_true] at e
      rcases List.mem_cons.mp (hp.subset e) with e | e
      · subst e
        exact ⟨h1, h2, h3⟩
      · exact hs.2.1 q l e
    · simp [eq] at e
      exact hs.2.1 q l e
  · by_cases eq : l = g
    · subst eq
      simp only [State.updSeg_seg, PerSeg.get_set, if_true]
      exact hp.nodup_iff.mpr (List.nodup_cons.mpr ⟨hn l, hs.2.2.1 l⟩)
    · simpa [eq] using hs.2.2.1 l
  · by_cases eq : l = g
    · subst eq
      simp at e
      simpa [hst, how] using hw e
    · simp [eq] at e ⊢
      exact hs.2.2.2 l e

theorem seats_defer (p : Port) (g : SegId) (s : State) (hs : Seats s) (hn : NotWaiting p s)
    (h1 : (s.session.get p).state = .grantWait) (h2 : (s.part p).segment = some g)
    (h3 : (s.session.get p).owned = none) (h4 : (s.seg.get g).state = .owned) (h5 : (s.seg.get g).owner = none) :
    Seats (defer g (.request p) s) := by
  refine seats_seek p g s _ hs hn h1 h2 h3 rfl rfl ?_ fun _ => ⟨h4, h5⟩
  show List.Perm (_ ++ List.filterMap Deferred.port? (_ ++ [_])) _
  rw [List.filterMap_append, ← List.append_assoc]
  exact List.perm_append_singleton p _

theorem seats_joinWaiters (p : Port) (g : SegId) (s : State) (hs : Seats s) (hn : NotWaiting p s)
    (h1 : (s.session.get p).state = .grantWait) (h2 : (s.part p).segment = some g)
    (h3 : (s.session.get p).owned = none) : Seats (joinWaiters p g s) := by
  have hs' : Seats (s.updSeg g fun c => { c with waiters := c.waiters ++ [p] }) := by
    refine seats_seek p g s _ hs hn h1 h2 h3 rfl rfl ?_ (hs.2.2.2 g)
    show List.Perm (_ ++ [p] ++ _) _
    rw [List.append_assoc]
    exact List.perm_middle
  unfold joinWaiters
  split
  · exact (ebb_refuseWaiting p .grantTimeout _ hs').seats hs'
  · exact (ebb_updSession _ p _ rfl rfl rfl).seats hs'

theorem seats_requestSegment (p : Port) (g : SegId) (s : State) (hs : Seats s) (hn : NotWaiting p s)
    (h2 : (s.part p).segment = some g) (h3 : (s.session.get p).owned = none) : Seats (requestSegment p g s) := by
  have e := ebb_setSessionState s p .grantWait hn
  have hs' := e.seats hs
  have hn' := e.notWaiting hn
  have h1' : ((s.setSessionState p .grantWait).session.get p).state = .grantWait := by simp
  have h2' : ((s.setSessionState p .grantWait).part p).segment = some g := by simpa [State.part] using h2
  have h3' := e.none h3
  unfold requestSegment
  dsimp only
  split
  · rename_i h
    exact seats_grantSegment p g _ hs' (hs'.unowned (by rw [h]; decide)) h3' fun l _ => hn' l
  · rename_i h
    split
    · exact seats_joinWaiters p g _ hs' hn' h1' h2' h3'
    · rename_i h'
      exact seats_defer p g _ hs' hn' h1' h2' h3' h h'
  · exact seats_joinWaiters p g _ hs' hn' h1' h2' h3'
  · exact (ebb_refuseAddress p _ _ _ hn').seats hs'
  · exact (ebb_refuseAddress p _ _ _ hn').seats hs'

theorem seats_forwardPart (p : Port) (s : State) (hs : Seats s) (hn : NotWaiting p s) : Seats (forwardPart p s) := by
  unfold forwardPart
  split
  · exact hs
  · rename_i g h
    split
    · exact (ebb_driveAddress p g true s hn).seats hs
    · have e := ebb_releaseSegment p s hs
      exact seats_requestSegment p g _ (e.seats hs) (e.notWaiting hn) (by rw [releaseSegment_part]; exact h)
        (releaseSegment_owned p s)

end Sys2Proof.Machine
end

