-- ==== Sys2Proof/Laws/Deferred.lean ====
section
/-!
SUPPORT. Owners and waiters over the end of a release: what waited for its STOP is taken in its order, and every port that
waited so still seeks nothing else.
-/

namespace Sys2Proof.Machine

/-! ## A disable -/

/-- A disable that waits for the STOP of a release is nobody's request. -/
theorem ebb_deferDisable (g : SegId) (s : State) (h : (s.seg.get g).state = .owned) (h' : (s.seg.get g).owner = none) :
    Ebb s (defer g .disable s) where
  owned q l e := by
    by_cases eq : l = g
    · subst eq
      simpa [defer] using e
    · simpa [defer, eq] using e
  waiters l := by
    by_cases eq : l = g
    · subst eq
      simp [defer, Segment.seekers, Deferred.port?]
    · simp [defer, eq]
  waiting q l _ := ⟨rfl, rfl, rfl⟩
  window l e := by
    by_cases eq : l = g
    · subst eq
      exact .inr (by simpa [defer] using ⟨h, h'⟩)
    · exact .inl (by simpa [defer, eq] using e)

theorem ebb_pendDisable (g : SegId) (s : State) : Ebb s (pendDisable g s) :=
  ebb_updSeg s g _ rfl rfl (List.Sublist.refl _)

theorem ebb_applyDisable (g : SegId) (s : State) (hs : Seats s) : Ebb s (applyDisable g s) := by
  unfold applyDisable
  split
  · rename_i h
    exact ebb_enterDisabled g s hs (hs.unowned (by rw [h]; decide))
  · rename_i h
    exact ebb_enterDisabled g s hs (hs.unowned (by rw [h]; decide))
  · exact .refl s
  · exact ebb_pendDisable g s
  · split
    · exact (ebb_abortSession _ s hs).trans (ebb_pendDisable g _)
    · rename_i h _ h'
      exact ebb_deferDisable g s h h'

/-! ## The segment a part names -/

/-- Every part names the segment it named. -/
def Names (s t : State) : Prop := ∀ p, (t.part p).segment = (s.part p).segment

theorem Names.refl (s : State) : Names s s := fun _ => rfl

theorem Names.trans {s t u : State} (h : Names s t) (h' : Names t u) : Names s u := fun p => (h' p).trans (h p)

theorem names_of_eq {s t : State} (h : t.session = s.session) : Names s t := fun p => by unfold State.part; rw [h]

theorem names_updSession (s : State) (p : Port) (f : Session → Session)
    (h : (f (s.session.get p)).part.segment = (s.session.get p).part.segment) : Names s (s.updSession p f) := fun q => by
  by_cases eq : q = p
  · subst eq
    simpa [State.part] using h
  · simp [State.part, eq]

theorem names_refuseAddress (p : Port) (r : Reason) (x : Option Half) (s : State) : Names s (refuseAddress p r x s) := by
  obtain ⟨f, a, h⟩ := refuseAddress_eq p r x s
  rw [h]
  intro q
  by_cases eq : q = p
  · subst eq
    simp [State.part]
  · simp [State.part, eq]

theorem names_makeRecord (p : Port) (r : Reason) (o : RecordOutcome) (x : Option Half) (s : State) :
    Names s (makeRecord p r o x s) := by
  obtain ⟨f, a, h⟩ := makeRecord_eq p r o x s
  rw [h]
  intro q
  by_cases eq : q = p
  · subst eq
    simp [State.part]
  · simp [State.part, eq]

theorem names_withdraw (p : Port) (s : State) : Names s (withdraw p s) := by
  unfold withdraw
  split
  · exact names_of_eq rfl
  · exact .refl s

theorem names_releaseHold (p : Port) (s : State) : Names s (releaseHold p s) := by
  unfold releaseHold
  split
  · exact names_updSession _ p _ rfl
  · exact .refl s

theorem names_enterDiscard (p : Port) (s : State) : Names s (enterDiscard p s) :=
  fun q => by
    by_cases eq : q = p
    · subst eq
      simp [enterDiscard, State.part]
    · simp [enterDiscard, State.part, eq]

theorem names_releaseWith (p : Port) (a : Ack) (s : State) : Names s (releaseWith p a s) :=
  (names_of_eq rfl : Names s (driveNinth p a s)).trans (names_releaseHold p _)

theorem names_presentFiller (p : Port) (s : State) : Names s (presentFiller p s) :=
  (names_of_eq rfl : Names s (presentByte p s.settings.filler s)).trans (names_updSession _ p _ rfl)

theorem names_setSessionState (p : Port) (t : SessionState) (s : State) : Names s (s.setSessionState p t) :=
  names_updSession s p _ rfl

theorem names_answerPart (p : Port) (r : Reason) (s : State) : Names s (answerPart p r s) := by
  have h := names_makeRecord p r .cut none s
  unfold answerPart
  split
  · exact (names_withdraw p s).trans (names_refuseAddress p r none _)
  · exact names_refuseAddress p r none s
  · dsimp only
    split
    · exact (h.trans (names_releaseWith p .nack _)).trans (names_enterDiscard p _)
    · exact h.trans (names_enterDiscard p _)
  · dsimp only
    split
    · exact ((h.trans (names_presentFiller p _)).trans (names_releaseHold p _)).trans (names_setSessionState p _ _)
    · exact h.trans (names_setSessionState p _ _)
  all_goals exact .refl s

theorem names_giveUpSegment (p : Port) (s : State) : Names s (giveUpSegment p s) := by
  unfold giveUpSegment
  split
  · exact .refl s
  · exact (names_updSession s p _ rfl : Names s (loseOwnership p s)).trans (names_of_eq rfl)

theorem names_abortSession (p : Port) (s : State) : Names s (abortSession p s) :=
  (names_answerPart p .aborted s).trans (names_giveUpSegment p _)

theorem names_refuseWaiters (g : SegId) (s : State) : Names s (refuseWaiters g s) := by
  have all (w : List Port) (t : State) : Names t (w.foldl (fun s p => refuseAddress p .segmentUnavailable none s) t) := by
    induction w generalizing t with
    | nil => exact .refl t
    | cons p w ih => exact (names_refuseAddress p _ _ t).trans (ih _)
  exact (names_of_eq rfl : Names s (s.updSeg g fun c => { c with waiters := [] })).trans (all _ _)

theorem completeJobs_session (g : SegId) (t : SegState) (r : QuarantineReason) (s : State) :
    (completeJobs g t r s).session = s.session := by
  have one (p : Port) (u : State) : (completeJob g t r p u).session = u.session := by
    unfold completeJob finishCommand
    repeat' split
    all_goals rfl
  exact (one .up1 _).trans (one .up0 s)

theorem names_enterDisabled (g : SegId) (s : State) : Names s (enterDisabled g s) :=
  (names_refuseWaiters g s).trans (names_of_eq (completeJobs_session g _ _ _))

theorem names_applyDisable (g : SegId) (s : State) : Names s (applyDisable g s) := by
  unfold applyDisable
  split
  · exact names_enterDisabled g s
  · exact names_enterDisabled g s
  · exact .refl s
  · exact names_of_eq rfl
  · split
    · exact names_abortSession _ s
    · exact names_of_eq rfl

theorem names_grantSegment (p : Port) (g : SegId) (s : State) : Names s (grantSegment p g s) :=
  fun q => by
    by_cases eq : q = p
    · subst eq
      simp [grantSegment, driveAddress, countGrant, State.part]
    · simp [grantSegment, driveAddress, countGrant, State.part, eq]

theorem names_settleSegment (g : SegId) (s : State) : Names s (settleSegment g s) := by
  unfold settleSegment
  split
  · exact names_enterDisabled g s
  · unfold grantHead
    split
    · exact names_of_eq (completeJobs_session g _ _ _)
    · refine Names.trans ?_ (names_grantSegment _ g _)
      exact names_of_eq (completeJobs_session g _ _ _)

theorem names_requestSegment (p : Port) (g : SegId) (s : State) : Names s (requestSegment p g s) := by
  have h : Names s (s.setSessionState p .grantWait) := names_updSession s p _ rfl
  have join : Names s (joinWaiters p g (s.setSessionState p .grantWait)) := by
    refine h.trans ?_
    unfold joinWaiters
    split
    · refine Names.trans ?_ ((names_withdraw p _).trans (names_refuseAddress p _ _ _))
      exact names_of_eq rfl
    · refine Names.trans ?_ (names_updSession _ p _ rfl)
      exact names_of_eq rfl
  unfold requestSegment
  dsimp only
  split
  · exact h.trans (names_grantSegment p g _)
  · split
    · exact join
    · exact h.trans (names_of_eq rfl)
  · exact join
  · exact h.trans (names_refuseAddress p _ _ _)
  · exact h.trans (names_refuseAddress p _ _ _)

/-! ## A port whose request is still to be taken -/

/-- A port seeks no segment, owns none, and its part names this one. -/
def Ready (g : SegId) (p : Port) (s : State) : Prop :=
  NotWaiting p s ∧ (s.session.get p).owned = none ∧ (s.part p).segment = some g

theorem Ebb.ready {s t : State} {g : SegId} {p : Port} (h : Ebb s t) (h' : Names s t) (hr : Ready g p s) : Ready g p t :=
  ⟨h.notWaiting hr.1, h.none hr.2.1, (h' p).trans hr.2.2⟩

theorem ready_grantSegment {g l : SegId} {p q : Port} {s : State} (hne : p ≠ q) (hu : Unowned l s) (hr : Ready g p s) :
    Ready g p (grantSegment q l s) := by
  refine ⟨fun m e => ?_, ?_, (names_grantSegment q l s p).trans hr.2.2⟩
  · rw [grantSegment_seekers q l m s hu] at e
    split at e
    · exact hr.1 l (List.mem_of_mem_erase e)
    · exact hr.1 m e
  · simpa [grantSegment, driveAddress, countGrant, hne] using hr.2.1

theorem ready_seek {g l : SegId} {p q : Port} {s : State} {f : Segment → Segment} (hne : p ≠ q)
    (hp : ∀ x, x ∈ (f (s.seg.get l)).seekers → x = q ∨ x ∈ (s.seg.get l).seekers) (hr : Ready g p s) :
    Ready g p (s.updSeg l f) := by
  refine ⟨fun m e => ?_, hr.2.1, hr.2.2⟩
  by_cases eq : m = l
  · subst eq
    simp only [State.updSeg_seg, PerSeg.get_set, if_true] at e
    rcases hp p e with e | e
    · exact hne e
    · exact hr.1 m e
  · simp [eq] at e
    exact hr.1 m e

theorem ready_requestSegment {g l : SegId} {p q : Port} {s : State} (hne : p ≠ q) (hs : Seats s) (hn : NotWaiting q s)
    (h2 : (s.part q).segment = some l) (h3 : (s.session.get q).owned = none) (hr : Ready g p s) :
    Ready g p (requestSegment q l s) := by
  have e := ebb_setSessionState s q .grantWait hn
  have n : Names s (s.setSessionState q .grantWait) := names_updSession s q _ rfl
  have hs' := e.seats hs
  have hr' := e.ready n hr
  have join : Ready g p (joinWaiters q l (s.setSessionState q .grantWait)) := by
    have h := ready_seek (l := l) (f := fun c => { c with waiters := c.waiters ++ [q] }) hne
      (fun x hx => by simp [Segment.seekers] at hx ⊢; tauto) hr'
    have hq : Seats ((s.setSessionState q .grantWait).updSeg l fun c => { c with waiters := c.waiters ++ [q] }) := by
      refine seats_seek q l _ _ hs' (e.notWaiting hn) (by simp) (by simpa [State.part] using h2) (e.none h3) rfl rfl ?_
        (hs'.2.2.2 l)
      show List.Perm (_ ++ [q] ++ _) _
      rw [List.append_assoc]
      exact List.perm_middle
    unfold joinWaiters
    split
    · exact (ebb_refuseWaiting q .grantTimeout _ hq).ready
        ((names_withdraw q _).trans (names_refuseAddress q _ _ _)) h
    · exact (ebb_updSession _ q _ rfl rfl rfl).ready (names_updSession _ q _ rfl) h
  unfold requestSegment
  dsimp only
  split
  · rename_i h
    exact ready_grantSegment hne (hs'.unowned (by rw [h]; decide)) hr'
  · split
    · exact join
    · exact ready_seek hne (fun x hx => by
        simp [Segment.seekers, Deferred.port?] at hx ⊢; tauto) hr'
  · exact join
  · exact (ebb_refuseAddress q _ _ _ (e.notWaiting hn)).ready (names_refuseAddress q _ _ _) hr'
  · exact (ebb_refuseAddress q _ _ _ (e.notWaiting hn)).ready (names_refuseAddress q _ _ _) hr'

theorem ready_settleSegment {g l : SegId} {p : Port} {s : State} (hs : Seats s) (hu : Unowned l s) (hr : Ready g p s) :
    Ready g p (settleSegment l s) := by
  unfold settleSegment
  split
  · exact (ebb_enterDisabled l s hs hu).ready (names_enterDisabled l s) hr
  · have e : Ebb s (completeJobs l .idle .none (s.updSeg l fun c =>
        { c with state := .idle, owner := none, hold := none, act := none, ninthOwed := false })) :=
      (ebb_updUnowned s l _ hu (List.Sublist.refl _)).trans (ebb_completeJobs l _ _ _)
    have hr' := e.ready (names_of_eq (completeJobs_session l _ _ _)) hr
    unfold grantHead
    split
    · exact hr'
    · rename_i q w hw
      refine ready_grantSegment (fun x => hr'.1 l ?_) (e.unowned hu (by rw [completeJobs_seg]; simp)) hr'
      unfold Segment.seekers
      rw [hw, x]
      simp

/-! ## The end of a release -/

/-- What waited for the STOP of a release is taken without harm to owners and waiters. -/
theorem seats_takeAllDeferred (g : SegId) (l : List Deferred) (s : State) (hs : Seats s)
    (hn : (l.filterMap Deferred.port?).Nodup) (hr : ∀ p, p ∈ l.filterMap Deferred.port? → Ready g p s) :
    Seats (takeAllDeferred g l s) := by
  unfold takeAllDeferred
  induction l generalizing s with
  | nil => exact hs
  | cons d l ih =>
    cases d with
    | disable =>
      have e := ebb_applyDisable g s hs
      rw [List.filterMap_cons_none (f := Deferred.port?) (a := .disable) rfl] at hn hr
      exact ih _ (e.seats hs) hn fun p hp => e.ready (names_applyDisable g s) (hr p hp)
    | request q =>
      rw [List.filterMap_cons_some (f := Deferred.port?) (a := .request q) (b := q) rfl] at hn hr
      obtain ⟨h1, h2, h3⟩ := hr q (by simp)
      refine ih _ (seats_requestSegment q g s hs h1 h3 h2) (List.nodup_cons.mp hn).2 fun p hp => ?_
      exact ready_requestSegment (fun x => (List.nodup_cons.mp hn).1 (x ▸ hp)) hs h1 h3 h2
        (hr p (List.mem_cons_of_mem _ hp))

/-- The end of a release keeps owners and waiters where they may be. -/
theorem seats_afterRelease (g : SegId) (r : StopResult) (s : State) (hs : Seats s) (ho : (s.seg.get g).owner = none) :
    Seats (afterRelease g r s) := by
  have e : Ebb s (s.updSeg g fun c => { c with deferred := [] }) :=
    ebb_updSeg s g _ rfl rfl (List.Sublist.refl _) (List.nil_sublist _)
  have hs' := e.seats hs
  have hu : Unowned g (s.updSeg g fun c => { c with deferred := [] }) :=
    ⟨fun p x => hs.notOwned ho p x, by simp⟩
  have hd := hs.2.2.1 g
  unfold Segment.seekers at hd
  rw [List.nodup_append] at hd
  have hr (p : Port) (hp : p ∈ (s.seg.get g).deferred.filterMap Deferred.port?) :
      Ready g p (s.updSeg g fun c => { c with deferred := [] }) := by
    obtain ⟨_, h2, h3⟩ := hs.2.1 p g (List.mem_append_right _ hp)
    refine ⟨fun l x => ?_, h3, h2⟩
    by_cases eq : l = g
    · subst eq
      simp [Segment.seekers] at x
      exact hd.2.2 p x p hp rfl
    · simp [eq] at x
      have := (hs.2.1 p l x).2.1
      rw [h2] at this
      exact eq (Option.some.inj this).symm
  unfold afterRelease
  cases r
  · exact seats_takeAllDeferred g _ _ (seats_settleSegment g _ hs' hu) hd.2.1 fun p hp =>
      ready_settleSegment hs' hu (hr p hp)
  all_goals
    exact seats_takeAllDeferred g _ _ ((ebb_startClose g _ hu).seats hs') hd.2.1 fun p hp =>
      (ebb_startClose g _ hu).ready (names_of_eq rfl) (hr p hp)

end Sys2Proof.Machine
end

