-- ==== Sys2Proof/Laws/Steps.lean ====
section
/-!
SUPPORT. What a step can be: the block idles, a reset begins or ends, nothing happens outside service, or an event takes effect in
service. An invariant that all of these keep is kept by every step.
-/

namespace Sys2Proof.Machine

/-- In service an event acts. -/
theorem inService_eq {s : State} (f : State → State) (h : s.phase = .inService) : inService f s = f s := if_pos h

/-- A step idles on an empty queue, or runs the command at the front. -/
theorem step_cases {s t : State} (h : step s = .next t) :
    (s.pending = [] ∧ t = s) ∨
      ∃ c rest, s.pending = c :: rest ∧ exec c { s with pending := rest } = .next t := by
  unfold step at h
  split at h
  · left; exact ⟨by assumption, (Host.Outcome.next.inj h).symm⟩
  · right; exact ⟨_, _, by assumption, h⟩

/-- An effect leaves the queue of commands. -/
theorem Effect.pending {s t : State} (h : Effect s t) : t.pending = s.pending := by
  induction h with
  | same h => exact h.pending
  | trans _ _ ih ih' => exact ih'.trans ih
  | append v s => unfold appendViolation; split <;> simp [evalAlerts, evalAlert, latchOverflow]
  | capture p s => unfold captureBank; split <;> simp
  | release p s => unfold releaseBank; split <;> simp
  | refill s => rfl
  | _ => simp [removeViolations, latchSegmentEvent, clearPortFlags, evalAlerts, evalAlert, finishCommand, startLong, swapBanks,
      latchCommitDone, failCommit]

/-- Outside service only the commands of a reset act (R184). -/
theorem exec_outside (c : Instr) (s : State) (hp : s.phase ≠ .inService) (hc : resetCommand c = false) :
    exec c s = .next s := by
  have h : ∀ f, inService f s = s := fun f => if_neg hp
  cases c <;> first | exact absurd hc Bool.noConfusion | exact congrArg Host.Outcome.next (h _)

/-- What a command of a reset does. -/
theorem reset_cases (c : Instr) (s t : State) (h : exec c s = .next t) (hc : resetCommand c = true) :
    (∃ ph, (∀ x, ph = ResetPhase.powerOn x → c = .powerOnReset) ∧ ph ≠ .inService ∧
        (t = beginReset ph (setPin .low s) ∨ t = beginReset ph s)) ∨
      (s.phase ≠ .inService ∧ t = setPin .low s) ∨ (∃ l, t = setPin l s) ∨
      (∃ pins, s.phase = .resetN ∧ s.bc.locked = true ∧ t = enterWithLocked (latchStraps pins) s) ∨
      (∃ pins, s.phase = .resetN ∧ s.bc.locked = false ∧ t = enterWithContents (latchStraps pins) s.settings s) ∨
      (∃ pins b, s.phase = .powerOn b ∧ t = enterWithContents (latchStraps pins) defaultSettings s) ∨
      (∃ b, s.phase = .powerOn b ∧ t = { s with phase := .powerOn true }) ∨ t = s := by
  cases c <;> simp [resetCommand] at hc
  case resetNLow =>
    have e := (Host.Outcome.next.inj h).symm
    unfold takeResetLow at e
    split at e
    · left; exact ⟨.resetN, by simp, by simp, .inl e⟩
    · right; left; simp_all
    · right; left; simp_all
  case resetNHigh pins =>
    have e := (Host.Outcome.next.inj h).symm
    unfold takeResetHigh endResetN endPowerOn at e
    split at e
    · right; right; left; exact ⟨_, e⟩
    · rename_i hp
      split at e
      · right; right; right; left; exact ⟨pins, hp, by assumption, e⟩
      · right; right; right; right; left; exact ⟨pins, hp, by simp_all, e⟩
    · right; right; left; exact ⟨_, e⟩
    · right; right; right; right; right; left; exact ⟨pins, _, by assumption, e⟩
  case powerOnReset =>
    have e := (Host.Outcome.next.inj h).symm
    left; exact ⟨_, by simp, by simp, .inr e⟩
  case powerOnResetEnd pins =>
    have e := (Host.Outcome.next.inj h).symm
    unfold takePowerOnEnd endPowerOn at e
    split at e
    · right; right; right; right; right; left; exact ⟨pins, _, by assumption, e⟩
    · right; right; right; right; right; right; left; exact ⟨_, by assumption, e⟩
    · simp [e]
    · simp [e]

/-- A property that effects in service and resets keep is kept by every step. -/
theorem step_keeps {P : State → Prop} (hpend : ∀ s l, P { s with pending := l } ↔ P s)
    (heff : ∀ s t, s.phase = .inService → Effect s t → P s → P t)
    (hreset : ∀ c s t, resetCommand c = true → exec c s = .next t → P s → P t) :
    ∀ s t, P s → step s = .next t → P t := by
  intro s t hs h
  rcases step_cases h with ⟨_, e⟩ | ⟨c, rest, _, h⟩
  · rw [e]; exact hs
  · have hs' := (hpend s rest).mpr hs
    cases hc : resetCommand c
    · by_cases hp : ({ s with pending := rest } : State).phase = .inService
      · exact heff _ _ hp (exec_effect c _ t h hc) hs'
      · rw [exec_outside c _ hp hc] at h
        rw [← Host.Outcome.next.inj h]; exact hs'
    · exact hreset c _ t hc h hs'

end Sys2Proof.Machine
end

