-- ==== Sys2Proof/Laws/Frames.lean ====
section
/-!
SUPPORT. What the frame of a management command does before its own effect: it is executed, or answered NO_SESSION or BAD_LENGTH,
or the port cannot send it; and the commands that frames carry are the management rows.
-/

namespace Sys2Proof.Machine

/-- A frame that passes the checks of length and session has its command's effect (R163). -/
theorem viaFrame_runs {p : Port} {c : MgmtCommand} {args : List Byte} {s : State} (hs : s.serves p)
    (hlen : args.length ∈ c.lengths)
    (hh : c.needsSession = false ∨ s.holder = some p) :
    inService (viaFrame p c args) s = perform p c args { s with idle := s.idleAfter p } := by
  obtain ⟨hp, hm, hj, hpar⟩ := hs
  have tf : s.takesFrame p = true := by simp [State.takesFrame, hm, hj, hpar]
  rw [inService_eq _ hp]; unfold viaFrame; rw [if_pos tf]; unfold runCommand; rw [if_pos hlen]
  dsimp only
  have e : touchIdle p s = { s with idle := s.idleAfter p } := by
    unfold touchIdle State.idleAfter; split <;> rfl
  rw [e]
  rw [if_neg]
  rintro ⟨a, b⟩
  rcases hh with h | h
  · rw [h] at a; cases a
  · exact b h

/-- A command that completes answers the slot. -/
theorem finishCommand_answered {p : Port} {s : State} (hs : s.serves p) (t : Status) (pl : List Byte) :
    finishCommand p t pl { s with idle := s.idleAfter p } = s.answered p t pl := by
  obtain ⟨hp, hm, hj, hpar⟩ := hs
  ext1 <;> simp [finishCommand, State.answered]
  rw [← hj]; simp

/-- A holder command of a port that does not hold the session (R163). -/
theorem viaFrame_noSession {p : Port} {c : MgmtCommand} {args : List Byte} {s : State} (hs : s.serves p)
    (hlen : args.length ∈ c.lengths)
    (hh : c.needsSession = true) (h2 : s.holder ≠ some p) :
    inService (viaFrame p c args) s = s.slotted p .noSession := by
  obtain ⟨hp, hm, hj, hpar⟩ := hs
  have tf : s.takesFrame p = true := by simp [State.takesFrame, hm, hj, hpar]
  rw [inService_eq _ hp]; unfold viaFrame; rw [if_pos tf]; unfold runCommand; rw [if_pos hlen]
  dsimp only
  have e : touchIdle p s = s := by unfold touchIdle; rw [if_neg h2]
  rw [e, if_pos ⟨hh, h2⟩]
  ext1 <;> simp [finishCommand, State.slotted]
  rw [← hj]; simp

/-- A frame of another length than the catalogue's (R163). -/
theorem viaFrame_badLength {p : Port} {c : MgmtCommand} {args : List Byte} {s : State} (hs : s.serves p)
    (hlen : args.length ∉ c.lengths) :
    inService (viaFrame p c args) s = s.slotted p .badLength := by
  obtain ⟨hp, hm, hj, hpar⟩ := hs
  have tf : s.takesFrame p = true := by simp [State.takesFrame, hm, hj, hpar]
  rw [inService_eq _ hp]; unfold viaFrame; rw [if_pos tf]; unfold runCommand; rw [if_neg hlen]
  ext1 <;> simp [finishCommand, State.slotted]
  rw [← hj]; simp

/-- A port that cannot send a frame now. -/
theorem viaFrame_unserved {p : Port} {c : MgmtCommand} {args : List Byte} {s : State} (hs : ¬ s.serves p) :
    inService (viaFrame p c args) s = s := by
  unfold inService; split
  · rename_i hp
    unfold viaFrame; rw [if_neg]
    intro h; apply hs
    simp [State.takesFrame] at h
    exact ⟨hp, h.1.1, h.1.2, h.2⟩
  · rfl

/-- A management row is the frame of its command. -/
theorem exec_frameOf {c : Instr} {p : Port} {code : Byte} {args : List Byte} (h : frameOf c = some (p, code, args)) :
    ∃ k : MgmtCommand,
      k.code = code ∧ (∀ s, exec c s = .next (inService (viaFrame p k args) s)) ∧
        (c.wellFormed = true ↔ args.length ∈ k.lengths) ∧ (k.needsSession = true ↔ 0x21 ≤ code.toNat) := by
  cases c <;> simp only [frameOf, Option.some.injEq, Prod.mk.injEq, reduceCtorEq] at h <;>
    obtain ⟨rfl, rfl, rfl⟩ := h
  case sessionOpen => exact ⟨.sessionOpen, rfl, fun _ => rfl,
      by simp [Instr.wellFormed, MgmtCommand.lengths], by decide⟩
  case sessionClose => exact ⟨.sessionClose, rfl, fun _ => rfl,
      by simp [Instr.wellFormed, MgmtCommand.lengths], by decide⟩
  case statusRead => exact ⟨.statusRead, rfl, fun _ => rfl,
      by simp [Instr.wellFormed, MgmtCommand.lengths], by decide⟩
  case identRead => exact ⟨.identRead, rfl, fun _ => rfl,
      by simp [Instr.wellFormed, MgmtCommand.lengths], by decide⟩
  case settingsRead => exact ⟨.settingsRead, rfl, fun _ => rfl,
      by simp [Instr.wellFormed, MgmtCommand.lengths], by decide⟩
  case violationRead => exact ⟨.violationRead, rfl, fun _ => rfl,
      by simp [Instr.wellFormed, MgmtCommand.lengths], by decide⟩
  case headerRead => exact ⟨.headerRead, rfl, fun _ => rfl,
      by simp [Instr.wellFormed, MgmtCommand.lengths], by decide⟩
  case entryRead => exact ⟨.entryRead, rfl, fun _ => rfl,
      by simp [Instr.wellFormed, MgmtCommand.lengths], by decide⟩
  case windowRead => exact ⟨.windowRead, rfl, fun _ => rfl,
      by simp [Instr.wellFormed, MgmtCommand.lengths], by decide⟩
  case counterRead => exact ⟨.counterRead, rfl, fun _ => rfl,
      by simp [Instr.wellFormed, MgmtCommand.lengths], by decide⟩
  case segmentStatus => exact ⟨.segmentStatus, rfl, fun _ => rfl,
      by simp [Instr.wellFormed, MgmtCommand.lengths], by decide⟩
  case headerWrite => exact ⟨.headerWrite, rfl, fun _ => rfl,
      by simp [Instr.wellFormed, MgmtCommand.lengths], by decide⟩
  case entryWrite => exact ⟨.entryWrite, rfl, fun _ => rfl,
      by simp [Instr.wellFormed, MgmtCommand.lengths], by decide⟩
  case entryClear => exact ⟨.entryClear, rfl, fun _ => rfl,
      by simp [Instr.wellFormed, MgmtCommand.lengths], by decide⟩
  case windowWrite => exact ⟨.windowWrite, rfl, fun _ => rfl,
      by simp [Instr.wellFormed, MgmtCommand.lengths], by decide⟩
  case shadowReload => exact ⟨.shadowReload, rfl, fun _ => rfl,
      by simp [Instr.wellFormed, MgmtCommand.lengths], by decide⟩
  case commit => exact ⟨.commit, rfl, fun _ => rfl,
      by simp [Instr.wellFormed, MgmtCommand.lengths, be16], by decide⟩
  case lockdown => exact ⟨.lockdown, rfl, fun _ => rfl,
      by simp [Instr.wellFormed, MgmtCommand.lengths], by decide⟩
  case violationAck => exact ⟨.violationAck, rfl, fun _ => rfl,
      by simp [Instr.wellFormed, MgmtCommand.lengths], by decide⟩
  case countersClear => exact ⟨.countersClear, rfl, fun _ => rfl,
      by simp [Instr.wellFormed, MgmtCommand.lengths], by decide⟩
  case settingsWrite => exact ⟨.settingsWrite, rfl, fun _ => rfl,
      by simp [Instr.wellFormed, MgmtCommand.lengths], by decide⟩
  case segmentDisable => exact ⟨.segmentDisable, rfl, fun _ => rfl,
      by simp [Instr.wellFormed, MgmtCommand.lengths], by decide⟩
  case segmentEnable => exact ⟨.segmentEnable, rfl, fun _ => rfl,
      by simp [Instr.wellFormed, MgmtCommand.lengths], by decide⟩
  case segmentRelease => exact ⟨.segmentRelease, rfl, fun _ => rfl,
      by simp [Instr.wellFormed, MgmtCommand.lengths], by decide⟩
  case abortAll => exact ⟨.abortAll, rfl, fun _ => rfl,
      by simp [Instr.wellFormed, MgmtCommand.lengths], by decide⟩

/-- A command byte names its command (R188). -/
theorem commandOfByte_code (k : MgmtCommand) : commandOfByte k.code = some k := by cases k <;> rfl

/-- The command a byte names has that byte. -/
theorem code_of_commandOfByte {b : Byte} {k : MgmtCommand} (h : commandOfByte b = some k) : k.code = b := by
  have := List.find?_some h
  simpa using this

/-- Arguments of a length the catalogue gives are those of a row. -/
theorem exists_frameOf (p : Port) (k : MgmtCommand) (args : List Byte) (h : args.length ∈ k.lengths) :
    ∃ c, frameOf c = some (p, k.code, args) := by
  have h0 : args.length = 0 → args = [] := List.length_eq_zero_iff.1
  have h1 : args.length = 1 → ∃ a, args = [a] := List.length_eq_one_iff.1
  have h2 : args.length = 2 → ∃ a b, args = [a, b] := List.length_eq_two.1
  have hc : 0 < args.length → ∃ a l, args = a :: l := by
    intro h; cases args with
    | nil => simp at h
    | cons a l => exact ⟨a, l, rfl⟩
  cases k <;> simp only [MgmtCommand.lengths, List.mem_cons, List.not_mem_nil, or_false] at h
  case sessionOpen => rw [h0 h]; exact ⟨.sessionOpen p, rfl⟩
  case sessionClose => rw [h0 h]; exact ⟨.sessionClose p, rfl⟩
  case statusRead => obtain ⟨a, rfl⟩ := h1 h; exact ⟨.statusRead p a, rfl⟩
  case identRead => rw [h0 h]; exact ⟨.identRead p, rfl⟩
  case settingsRead => rw [h0 h]; exact ⟨.settingsRead p, rfl⟩
  case violationRead => rw [h0 h]; exact ⟨.violationRead p, rfl⟩
  case headerRead => obtain ⟨a, rfl⟩ := h1 h; exact ⟨.headerRead p a, rfl⟩
  case entryRead => obtain ⟨a, b, rfl⟩ := h2 h; exact ⟨.entryRead p a b, rfl⟩
  case windowRead => obtain ⟨a, b, rfl⟩ := h2 h; exact ⟨.windowRead p a b, rfl⟩
  case counterRead => obtain ⟨a, b, rfl⟩ := h2 h; exact ⟨.counterRead p a b, rfl⟩
  case segmentStatus => obtain ⟨a, rfl⟩ := h1 h; exact ⟨.segmentStatus p a, rfl⟩
  case headerWrite => exact ⟨.headerWrite p args, rfl⟩
  case entryWrite => obtain ⟨a, l, rfl⟩ := hc (by omega); exact ⟨.entryWrite p a l, rfl⟩
  case entryClear => obtain ⟨a, rfl⟩ := h1 h; exact ⟨.entryClear p a, rfl⟩
  case windowWrite => obtain ⟨a, l, rfl⟩ := hc (by omega); exact ⟨.windowWrite p a l, rfl⟩
  case shadowReload => rw [h0 h]; exact ⟨.shadowReload p, rfl⟩
  case commit => obtain ⟨a, b, rfl⟩ := h2 h; exact ⟨.commit p (halfOf a b), by simp only [frameOf, be16_halfOf]; rfl⟩
  case lockdown => rw [h0 h]; exact ⟨.lockdown p, rfl⟩
  case violationAck => obtain ⟨a, rfl⟩ := h1 h; exact ⟨.violationAck p a, rfl⟩
  case countersClear => rw [h0 h]; exact ⟨.countersClear p, rfl⟩
  case settingsWrite => exact ⟨.settingsWrite p args, rfl⟩
  case segmentDisable => obtain ⟨a, rfl⟩ := h1 h; exact ⟨.segmentDisable p a, rfl⟩
  case segmentEnable => obtain ⟨a, rfl⟩ := h1 h; exact ⟨.segmentEnable p a, rfl⟩
  case segmentRelease => obtain ⟨a, rfl⟩ := h1 h; exact ⟨.segmentRelease p a, rfl⟩
  case abortAll => rw [h0 h]; exact ⟨.abortAll p, rfl⟩

end Sys2Proof.Machine
end

