-- ==== Sys2Proof/Laws/Invariants.lean ====
section
/-!
SUPPORT. What each effect of Effects.lean does to the parts of state that Safety.lean speaks of.
-/

namespace Sys2Proof.Machine

/-! ## The Alert Unit and the Violation Queue -/

@[simp] theorem evalAlerts_alert (s : State) (p : Port) : (evalAlerts s).alert.get p = s.alertLevel p := by
  cases p <;> rfl

@[simp] theorem evalAlerts_queue (s : State) : (evalAlerts s).queue = s.queue := rfl
@[simp] theorem evalAlerts_flags (s : State) : (evalAlerts s).flags = s.flags := rfl
@[simp] theorem evalAlerts_settings (s : State) : (evalAlerts s).settings = s.settings := rfl
@[simp] theorem evalAlerts_phase (s : State) : (evalAlerts s).phase = s.phase := rfl
@[simp] theorem evalAlerts_session (s : State) : (evalAlerts s).session = s.session := rfl
@[simp] theorem evalAlerts_seg (s : State) : (evalAlerts s).seg = s.seg := rfl
@[simp] theorem evalAlerts_bank (s : State) : (evalAlerts s).bank = s.bank := rfl
@[simp] theorem evalAlerts_bc (s : State) : (evalAlerts s).bc = s.bc := rfl
@[simp] theorem evalAlerts_slot (s : State) : (evalAlerts s).slot = s.slot := rfl
@[simp] theorem evalAlerts_job (s : State) : (evalAlerts s).job = s.job := rfl

/-- The level of an alert line depends on the settings, the queue and the port's flags alone. -/
theorem alertLevel_congr {s t : State} (p : Port) (hs : t.settings = s.settings) (hq : t.queue = s.queue)
    (hf : t.flags.get p = s.flags.get p) : t.alertLevel p = s.alertLevel p := by
  unfold State.alertLevel State.limits State.queueHolds
  rw [hs, hq, hf]

/-- An append stores the record at the tail with the next sequence number, or drops it and counts it. -/
theorem appendViolation_queue (v : Violation) (s : State) :
    (appendViolation v s).queue =
      if s.queue.records.length < 32 then
        { s.queue with
          records := s.queue.records ++ [{ v with sequence := s.queue.nextSequence }],
          nextSequence := s.queue.nextSequence + 1 }
      else { s.queue with overflow := satInc s.queue.overflow } := by
  unfold appendViolation Config.queueCapacity
  split <;> simp [latchOverflow]

/-- An append changes queue, flags and alert lines alone. -/
theorem appendViolation_other (v : Violation) (s : State) :
    (appendViolation v s).phase = s.phase ∧ (appendViolation v s).settings = s.settings ∧
      (appendViolation v s).session = s.session ∧ (appendViolation v s).seg = s.seg ∧
      (appendViolation v s).bank = s.bank ∧ (appendViolation v s).bc = s.bc ∧
      (appendViolation v s).slot = s.slot ∧ (appendViolation v s).job = s.job := by
  unfold appendViolation
  split <;> simp [latchOverflow]

theorem appendViolation_alert (v : Violation) (s : State) (p : Port) :
    (appendViolation v s).alert.get p = (appendViolation v s).alertLevel p := by
  unfold appendViolation
  split
  · rw [evalAlerts_alert]
    exact (alertLevel_congr p rfl rfl rfl).symm
  · unfold latchOverflow
    rw [evalAlerts_alert]
    exact (alertLevel_congr p rfl rfl rfl).symm

theorem sequence_shift (q : ViolationQueue) (i : Nat) (hi : i < q.records.length) :
    q.nextSequence - BitVec.ofNat 16 (q.records.length - i) =
      q.nextSequence + 1 - BitVec.ofNat 16 (q.records.length + 1 - i) := by
  have h : q.records.length + 1 - i = (q.records.length - i) + 1 := by omega
  have h' : BitVec.ofNat 16 ((q.records.length - i) + 1) = BitVec.ofNat 16 (q.records.length - i) + 1#16 := by
    rw [BitVec.ofNat_add]
  rw [h, h']
  generalize BitVec.ofNat 16 (q.records.length - i) = x
  generalize q.nextSequence = y
  bv_omega

theorem appendViolation_safe (v : Violation) (s : State) (h : QueueSafe s.queue) :
    QueueSafe (appendViolation v s).queue := by
  obtain ⟨hlen, hseq, hovf⟩ := h
  rw [appendViolation_queue]
  split
  · rename_i hlt
    refine ⟨by simp; omega, ?_, by simp⟩
    intro i w hw
    rcases Nat.lt_or_ge i s.queue.records.length with hi | hi
    · rw [List.getElem?_append_left hi] at hw
      rw [hseq i w hw, sequence_shift _ _ hi]
      simp
    · rw [List.getElem?_append_right hi] at hw
      rcases Nat.eq_zero_or_pos (i - s.queue.records.length) with h0 | h0
      · have hi' : i = s.queue.records.length := by omega
        subst hi'
        simp at hw
        subst hw
        simp
      · have h1 : ([{ v with sequence := s.queue.nextSequence }] : List Violation)[i - s.queue.records.length]? = none :=
          List.getElem?_eq_none (by simp; omega)
        rw [h1] at hw
        cases hw
  · rename_i hge
    refine ⟨hlen, hseq, fun h0 => ?_⟩
    have h0' : s.queue.records = [] := h0
    rw [h0'] at hge
    simp at hge

theorem removeViolations_safe (n : Nat) (s : State) (h : QueueSafe s.queue) :
    QueueSafe (removeViolations n s).queue := by
  obtain ⟨hlen, hseq, hovf⟩ := h
  have e : (removeViolations n s).queue =
      { s.queue with
        records := s.queue.records.drop n,
        overflow := if s.queue.records.drop n = [] then 0 else s.queue.overflow } := by
    simp [removeViolations]
  rw [e]
  refine ⟨by simp; omega, ?_, fun h0 => if_pos h0⟩
  intro i v hv
  have hv' : s.queue.records[n + i]? = some v := by simpa using hv
  have hlt : n + i < s.queue.records.length := (List.getElem?_eq_some_iff.mp hv').1
  rw [hseq _ _ hv']
  simp only [List.length_drop]
  congr 2
  omega

/-- The fields the Alert Unit's and the Management Agent's effects leave alone. -/
@[simp] theorem latchSegmentEvent_queue (s : State) : (latchSegmentEvent s).queue = s.queue := by
  simp [latchSegmentEvent]

@[simp] theorem clearPortFlags_queue (p : Port) (s : State) : (clearPortFlags p s).queue = s.queue := by
  simp [clearPortFlags, evalAlert]

@[simp] theorem finishCommand_queue (p : Port) (t : Status) (l : List Byte) (s : State) :
    (finishCommand p t l s).queue = s.queue := by
  simp [finishCommand]

@[simp] theorem startLong_queue (p : Port) (j : LongCommand) (s : State) : (startLong p j s).queue = s.queue := by
  simp [startLong]

@[simp] theorem captureBank_queue (p : Port) (s : State) : (captureBank p s).queue = s.queue := by
  unfold captureBank
  split <;> simp

@[simp] theorem releaseBank_queue (p : Port) (s : State) : (releaseBank p s).queue = s.queue := by
  unfold releaseBank
  split <;> simp

@[simp] theorem swapBanks_queue (j : CommitJob) (s : State) : (swapBanks j s).queue = s.queue := by
  simp [swapBanks, latchCommitDone, evalAlert]

@[simp] theorem failCommit_queue (j : CommitJob) (f : CommitFailure) (s : State) :
    (failCommit j f s).queue = s.queue := by
  simp [failCommit]

/-- No effect breaks the queue. -/
theorem Effect.queueSafe {s t : State} (h : Effect s t) : QueueSafe s.queue → QueueSafe t.queue := by
  induction h with
  | same h => intro hq; rw [h.queue]; exact hq
  | trans _ _ ih ih' => exact fun hq => ih' (ih hq)
  | append v s => exact appendViolation_safe v s
  | remove n s => exact removeViolations_safe n s
  | refill s => exact id
  | _ => intro hq; simpa using hq

/-- No effect changes the reset phase. -/
theorem Effect.phase {s t : State} (h : Effect s t) : t.phase = s.phase := by
  induction h with
  | same h => exact h.phase
  | trans _ _ ih ih' => exact ih'.trans ih
  | append v s => exact (appendViolation_other v s).1
  | capture p s => unfold captureBank; split <;> simp
  | release p s => unfold releaseBank; split <;> simp
  | refill s => rfl
  | _ => simp [removeViolations, latchSegmentEvent, clearPortFlags, evalAlert, finishCommand, startLong, swapBanks,
      latchCommitDone, failCommit]

theorem portSettingsOfBytes_safe {a b c d : Byte} {r : PortSettings} (h : portSettingsOfBytes a b c d = some r) :
    1 ≤ r.stretch.toNat ∧ 1 ≤ r.abandon.toNat := by
  unfold portSettingsOfBytes at h
  split at h
  · cases h
  · rename_i hn
    cases hm : maskOfByte d with
    | none => rw [hm] at h; cases h
    | some m =>
      rw [hm] at h
      simp only [Option.map_some, Option.some.injEq] at h
      subst h
      simp only
      constructor <;> bv_omega

/-- An accepted settings record is in range (R179). -/
theorem settingsOfBytes_safe {l : List Byte} {r : Settings} (h : settingsOfBytes l = some r) : SettingsSafe r := by
  unfold settingsOfBytes at h
  split at h
  · split at h
    · rename_i h0 h1 _ _ _ _
      split at h
      · cases h
      · rename_i hn
        simp only [Option.some.injEq] at h
        subst h
        refine ⟨?_, ?_, ?_, ?_⟩
        · intro p
          cases p
          · exact portSettingsOfBytes_safe h0
          · exact portSettingsOfBytes_safe h1
        all_goals simp only; try constructor
        all_goals bv_omega
    · cases h
  · cases h

theorem Effect.settingsSafe {s t : State} (h : Effect s t) : SettingsSafe s.settings → SettingsSafe t.settings := by
  induction h with
  | same h => intro hq; rw [h.settings]; exact hq
  | trans _ _ ih ih' => exact fun hq => ih' (ih hq)
  | append v s => rw [(appendViolation_other v s).2.1]; exact id
  | settings l r h s => intro _; simpa using settingsOfBytes_safe h
  | capture p s => unfold captureBank; split <;> simp
  | release p s => unfold releaseBank; split <;> simp
  | refill s => exact id
  | _ => intro hq; simpa [removeViolations, latchSegmentEvent, clearPortFlags, evalAlert, finishCommand, startLong, swapBanks,
      latchCommitDone, failCommit] using hq

/-- In service every effect leaves the alert lines at their level. -/
theorem Effect.alertsSafe {s t : State} (h : Effect s t) (hp : s.phase = .inService) : AlertsSafe s → AlertsSafe t := by
  have key : ∀ u : State, u.phase = .inService → (∀ p, u.alert.get p = u.alertLevel p) → AlertsSafe u :=
    fun u hu h p => by rw [h p, if_pos hu]
  have key' : ∀ u : State, u.phase = .inService → AlertsSafe u → (∀ p, u.alert.get p = u.alertLevel p) :=
    fun u hu h p => by rw [h p, if_pos hu]
  induction h with
  | same h =>
    intro ha
    have ha' := key' _ hp ha
    refine key _ (h.phase.trans hp) fun p => ?_
    rw [h.alert, ha' p, alertLevel_congr p h.settings h.queue (by rw [h.flags])]
  | trans h1 _ ih ih' => exact fun hq => ih' (h1.phase.trans hp) (ih hp hq)
  | append v s => exact fun _ => key _ ((Effect.append v s).phase.trans hp) (appendViolation_alert v s)
  | remove n s =>
    intro _
    refine key _ ((Effect.remove n s).phase.trans hp) fun p => ?_
    unfold removeViolations
    rw [evalAlerts_alert]; exact (alertLevel_congr p rfl rfl rfl).symm
  | segmentEvent s =>
    intro _
    refine key _ ((Effect.segmentEvent s).phase.trans hp) fun p => ?_
    unfold latchSegmentEvent
    rw [evalAlerts_alert]; exact (alertLevel_congr p rfl rfl rfl).symm
  | settings l r h s =>
    intro _
    refine key _ (by simpa using hp) fun p => ?_
    rw [evalAlerts_alert]; exact (alertLevel_congr p rfl rfl rfl).symm
  | clearFlags q s =>
    intro ha
    have ha' := key' _ hp ha
    refine key _ ((Effect.clearFlags q s).phase.trans hp) fun p => ?_
    by_cases e : p = q
    · subst e
      simp [clearPortFlags, evalAlert]
      exact (alertLevel_congr p rfl rfl (by simp)).symm
    · have h1 : (clearPortFlags q s).alert.get p = s.alert.get p := by simp [clearPortFlags, evalAlert, e]
      rw [h1, ha' p]
      exact (alertLevel_congr (s := s) (t := clearPortFlags q s) p rfl rfl (by simp [clearPortFlags, evalAlert, e])).symm
  | swap j s h hv =>
    intro ha
    have ha' := key' _ hp ha
    refine key _ ((Effect.swap j s h hv).phase.trans hp) fun p => ?_
    by_cases e : p = j.port
    · subst e
      simp [swapBanks, latchCommitDone, evalAlert]
      exact (alertLevel_congr _ (by simp) (by simp) (by simp)).symm
    · simp [swapBanks, latchCommitDone, evalAlert, e, finishCommand]
      rw [ha' p]
      exact (alertLevel_congr _ (by simp) (by simp) (by simp [e])).symm
  | capture p s =>
    intro ha
    have ha' := key' _ hp ha
    refine key _ ((Effect.capture p s).phase.trans hp) fun q => ?_
    unfold captureBank
    split
    · exact ha' q
    · simp; rw [ha' q]; exact (alertLevel_congr q rfl rfl rfl).symm
  | release p s =>
    intro ha
    have ha' := key' _ hp ha
    refine key _ ((Effect.release p s).phase.trans hp) fun q => ?_
    unfold releaseBank
    split
    · exact ha' q
    · simp; rw [ha' q]; exact (alertLevel_congr q rfl rfl rfl).symm
  | refill s => exact id
  | _ =>
    intro ha
    have ha' := key' _ hp ha
    refine key _ (by simpa [finishCommand, startLong, failCommit] using hp) fun q => ?_
    simp [finishCommand, startLong, failCommit]
    rw [ha' q]; exact (alertLevel_congr q rfl rfl rfl).symm

/-- Holder counts, and what the shadow's state says of drains, commits and the lockdown, together. -/
def BankInv (s : State) : Prop :=
  HoldersSafe s ∧ (s.bc.shadow = .draining ↔ 0 < s.bc.holders.get s.shadowId) ∧
      (s.bc.shadow = .validating ↔ s.bc.commit.isSome) ∧ (s.bc.shadow = .locked ↔ s.bc.locked)

theorem captures_congr (s t : State) (k) (h : ∀ p, (t.session.get p).bank = (s.session.get p).bank) : t.captures k = s.captures k := by
  have h0 := h .up0
  have h1 := h .up1
  simp only [PerPort.get] at h0 h1
  simp only [State.captures, Session.holds, h0, h1]

theorem captures_get (s : State) (p : Port) (k : BankId) :
    s.captures k = (s.session.get p).holds k + (s.session.get p.other).holds k := by
  cases p
  · rfl
  · exact Nat.add_comm _ _

theorem bankInv_congr {s t : State} (hb : t.bc = s.bc) (h : ∀ p, (t.session.get p).bank = (s.session.get p).bank)
    (hi : BankInv s) : BankInv t := by
  obtain ⟨h1, h2⟩ := hi
  refine ⟨fun k => ?_, ?_⟩
  · rw [hb, captures_congr s t k h]; exact h1 k
  · simpa [State.shadowId, hb] using h2

theorem Effect.bankInv {s t : State} (h : Effect s t) : BankInv s → BankInv t := by
  induction h with
  | same h => exact bankInv_congr h.bc h.captured
  | trans _ _ ih ih' => exact fun hq => ih' (ih hq)
  | append v s =>
    obtain ⟨_, _, h3, _, _, h6, _⟩ := appendViolation_other v s
    exact bankInv_congr h6 (fun p => by rw [h3])
  | capture p s =>
    intro hi
    unfold captureBank
    split
    · exact hi
    · rename_i hn
      obtain ⟨h1, h2, h3, h4⟩ := hi
      refine ⟨fun k => ?_, ?_, by simpa using h3, by simpa using h4⟩
      · have := h1 k
        rw [captures_get _ p] at this ⊢
        have hz : (s.session.get p).holds k = 0 := by simp [Session.holds, hn]
        by_cases e : k = s.bc.active
        · subst e
          simp [Session.holds, hn] at this ⊢
          omega
        · have e' : ¬ s.bc.active = k := fun x => e x.symm
          simp [Session.holds, e, e', hn] at this ⊢
          omega
      · simpa [State.shadowId] using h2
  | release p s =>
    intro hi
    unfold releaseBank
    split
    · exact hi
    · rename_i k hk
      obtain ⟨h1, h2, h3, h4⟩ := hi
      have hk1 := h1 k
      refine ⟨fun l => ?_, ?_, ?_, ?_⟩
      · have := h1 l
        rw [captures_get _ p] at this ⊢
        by_cases e : l = k
        · subst e
          simp [Session.holds, hk] at this ⊢
          omega
        · have e' : ¬ k = l := fun x => e x.symm
          simp [Session.holds, e, e', hk] at this ⊢
          omega
      · simp only [State.updBc_bc, State.updSession_bc, State.shadowId, PerBank.get_set] at h2 ⊢
        by_cases e : s.bc.active.other = k
        · subst e
          by_cases e1 : s.bc.shadow = .draining
          · by_cases e2 : s.bc.holders.get s.bc.active.other - 1 = 0
            · simp [e1, e2]
            · simp [e1, e2]; omega
          · have : ¬ 0 < s.bc.holders.get s.bc.active.other := fun x => e1 (h2.mpr x)
            simp [e1]; omega
        · have e' : ¬ k = s.bc.active.other := fun x => e x.symm
          simpa [e, e'] using h2
      · show (if s.bc.shadow = .draining ∧ k = s.bc.active.other ∧ s.bc.holders.get k - 1 = 0 then ShadowState.reloading
          else s.bc.shadow) = .validating ↔ s.bc.commit.isSome
        by_cases hd : s.bc.shadow = .draining ∧ k = s.bc.active.other ∧ s.bc.holders.get k - 1 = 0
        · rw [if_pos hd]
          constructor
          · intro hx; cases hx
          · intro hx
            have := h3.mpr hx
            rw [hd.1] at this; cases this
        · rw [if_neg hd]; exact h3
      · show (if s.bc.shadow = .draining ∧ k = s.bc.active.other ∧ s.bc.holders.get k - 1 = 0 then ShadowState.reloading
          else s.bc.shadow) = .locked ↔ s.bc.locked
        by_cases hd : s.bc.shadow = .draining ∧ k = s.bc.active.other ∧ s.bc.holders.get k - 1 = 0
        · rw [if_pos hd]
          constructor
          · intro hx; cases hx
          · intro hx
            have := h4.mpr hx
            rw [hd.1] at this; cases this
        · rw [if_neg hd]; exact h4
  | stage f s he ha hh hd hc hk =>
    rintro ⟨h1, h2, h3, h4⟩
    have hc := hc (by
      cases e : s.bc.commit with
      | none => rfl
      | some j => rw [h3.mpr (by rw [e]; rfl)] at he; cases he)
    have hk := hk (by
      cases e : s.bc.locked with
      | false => rfl
      | true => rw [h4.mpr e] at he; cases he)
    refine ⟨fun k => ?_, ?_, by simpa using hc, by simpa using hk⟩
    · simpa [State.captures, hh] using h1 k
    · have : ¬ 0 < s.bc.holders.get s.shadowId := fun x => by rw [h2.mpr x] at he; cases he
      simp [State.shadowId, ha, hh, hd] at this ⊢
      omega
  | reload s h =>
    rintro ⟨h1, h2, h3, h4⟩
    refine ⟨fun k => by simpa [State.captures] using h1 k, ?_, ?_, ?_⟩
    · have : ¬ 0 < s.bc.holders.get s.shadowId := fun x => by rw [h2.mpr x] at h; cases h
      simp [State.shadowId] at this ⊢
      omega
    · have : ¬ s.bc.commit.isSome := fun x => by rw [h3.mpr x] at h; cases h
      simpa using this
    · have : ¬ s.bc.locked := fun x => by rw [h4.mpr x] at h; cases h
      simpa using this
  | fail j f s h =>
    rintro ⟨h1, h2, h3, h4⟩
    have hv := h3.mpr (by rw [h]; rfl)
    refine ⟨fun k => by simpa [State.captures, failCommit, finishCommand] using h1 k, ?_, ?_, ?_⟩
    · have : ¬ 0 < s.bc.holders.get s.shadowId := fun x => by rw [h2.mpr x] at hv; cases hv
      simp [State.shadowId, failCommit, finishCommand] at this ⊢
      omega
    · simp [failCommit, finishCommand]
    · have : ¬ s.bc.locked := fun x => by rw [h4.mpr x] at hv; cases hv
      simpa [failCommit, finishCommand] using this
  | swap j s h hc =>
    rintro ⟨h1, h2, h3, h4⟩
    have hv := h3.mpr (by rw [h]; rfl)
    have hl : s.bc.locked = false := by
      have : ¬ s.bc.locked := fun x => by rw [h4.mpr x] at hv; cases hv
      simpa using this
    refine ⟨fun k => by simpa [swapBanks, latchCommitDone, evalAlert, finishCommand, State.captures] using h1 k, ?_, ?_, ?_⟩
    · simp [State.shadowId, swapBanks, latchCommitDone, evalAlert, finishCommand]
    · simp [swapBanks, latchCommitDone, evalAlert, finishCommand]
      split <;> simp
    · simp [swapBanks, latchCommitDone, evalAlert, finishCommand, hl]
      split <;> simp
  | edit f s hf hl he =>
    rintro ⟨h1, h2, h3, h4⟩
    exact ⟨fun k => by simpa [State.captures] using h1 k, by simpa [State.shadowId] using h2, by simpa using h3, by simpa using h4⟩
  | refill s => exact id
  | _ =>
    refine bankInv_congr ?_ ?_ <;>
      simp [removeViolations, latchSegmentEvent, clearPortFlags, evalAlert, finishCommand, startLong]

/-- The active bank keeps passing the DUPLICATE check. -/
theorem Effect.policySafe {s t : State} (h : Effect s t) : PolicySafe s → PolicySafe t := by
  induction h with
  | same h => intro hp; unfold PolicySafe; rw [h.bank, h.bc]; exact hp
  | trans _ _ ih ih' => exact fun hq => ih' (ih hq)
  | append v s =>
    obtain ⟨_, _, _, _, h5, h6, _⟩ := appendViolation_other v s
    intro hp; unfold PolicySafe; rw [h5, h6]; exact hp
  | capture p s => unfold captureBank; split <;> simp [PolicySafe]
  | release p s => unfold releaseBank; split <;> simp [PolicySafe]
  | edit f s => intro hp; simpa [PolicySafe, State.shadowId] using hp
  | reload s h => intro hp; simpa [PolicySafe, State.shadowId] using hp
  | stage f s he ha => intro hp; simpa [PolicySafe, ha] using hp
  | swap j s h hv =>
    intro _
    simp [PolicySafe, swapBanks, latchCommitDone, evalAlert, finishCommand]
    unfold commitFailure at hv
    split at hv
    · cases hv
    · split at hv
      · cases hv
      · split at hv
        · cases hv
        · assumption
  | refill s => exact id
  | _ =>
    intro hp
    simpa [PolicySafe, removeViolations, latchSegmentEvent, clearPortFlags, evalAlert, finishCommand, startLong, failCommit] using hp

/-- A slot reads IN_PROGRESS exactly while a command of its port is in progress. -/
def SlotInv (s : State) : Prop := ∀ p, ((s.slot.get p).status = .inProgress ↔ (s.job.get p).isSome)

theorem Effect.slotInv {s t : State} (h : Effect s t) : SlotInv s → SlotInv t := by
  induction h with
  | same h => intro hp p; rw [h.slot, h.job]; exact hp p
  | trans _ _ ih ih' => exact fun hq => ih' (ih hq)
  | append v s =>
    obtain ⟨_, _, _, _, _, _, h7, h8⟩ := appendViolation_other v s
    intro hp p; rw [h7, h8]; exact hp p
  | capture p s => unfold captureBank; split <;> simp [SlotInv]
  | release p s => unfold releaseBank; split <;> simp [SlotInv]
  | finish p t l h s =>
    intro hp q
    by_cases e : q = p
    · subst e; simp [finishCommand, h]
    · simpa [finishCommand, e] using hp q
  | long p j s =>
    intro hp q
    by_cases e : q = p
    · subst e; simp [startLong]
    · simpa [startLong, e] using hp q
  | rejob p i j s h =>
    intro hp q
    by_cases e : q = p
    · subst e; simpa [h] using hp q
    · simpa [e] using hp q
  | swap j s =>
    intro hp q
    by_cases e : q = j.port
    · subst e; simp [swapBanks, latchCommitDone, evalAlert, finishCommand]
    · simpa [swapBanks, latchCommitDone, evalAlert, finishCommand, e] using hp q
  | fail j f s =>
    intro hp q
    by_cases e : q = j.port
    · subst e; simp [failCommit, finishCommand]
    · simpa [failCommit, finishCommand, e] using hp q
  | refill s => exact id
  | _ =>
    intro hp q
    simpa [removeViolations, latchSegmentEvent, clearPortFlags, evalAlert] using hp q

/-! ## Credit -/

theorem creditSafe_congr {s t : State} (ha : t.accounts = s.accounts) (hb : t.bank = s.bank)
    (hc : t.bc.active = s.bc.active) (h : CreditSafe s) : CreditSafe t := by
  unfold CreditSafe
  rw [ha, hb, hc]
  exact h

/-- What one entry and its bucket must be. -/
def BucketSafe (e : Entry) (b : Option Nat) : Prop :=
  (∀ n, b = some n → e.valid = true ∧ ∃ l, e.creditLimit = some l ∧ n ≤ l.toNat) ∧
    (b = none → e.valid = true → e.creditLimit = none)

theorem creditSafe_iff (s : State) : CreditSafe s ↔ ∀ i, BucketSafe (tableGet (s.bank.get s.bc.active).entries i)
    (tableGet (s.accounts.get s.bc.active) i).bucket :=
  ⟨fun h i => ⟨h.1 i, h.2 i⟩, fun h => ⟨fun i => (h i).1, fun i => (h i).2⟩⟩

theorem freshBucket_safe (e : Entry) : BucketSafe e (freshBucket e) := by
  unfold BucketSafe freshBucket
  cases hv : e.valid <;> cases hl : e.creditLimit <;> simp

theorem lowered_safe {e : Entry} {n : Nat} (h : BucketSafe e (some (n + 1))) : BucketSafe e (some n) := by
  obtain ⟨hv, l, hl, hn⟩ := h.1 _ rfl
  refine ⟨fun m hm => ⟨hv, l, hl, ?_⟩, by simp⟩
  cases hm
  omega

theorem refilled_safe {e : Entry} {a : EntryAccount} (h : BucketSafe e a.bucket) : BucketSafe e (refilled e a).bucket := by
  unfold refilled
  split
  · rename_i n l hb hl
    rw [hb] at h
    refine ⟨fun m hm => ⟨(h.1 _ rfl).1, l, hl, ?_⟩, by simp⟩
    cases hm
    omega
  · exact h

/-- In the active bank an entry has a bucket exactly while it is valid and has a credit limit, and its count is not above the
limit (R116). -/
theorem Effect.creditSafe {s t : State} (h : Effect s t) : CreditSafe s → CreditSafe t := by
  induction h with
  | same h =>
    rw [creditSafe_iff, creditSafe_iff]
    intro hc i
    rw [h.bc, h.bank, h.credits]
    exact hc i
  | trans _ _ ih ih' => exact fun hq => ih' (ih hq)
  | append v s =>
    obtain ⟨_, _, _, _, h5, h6, _⟩ := appendViolation_other v s
    refine creditSafe_congr ?_ h5 (by rw [h6])
    unfold appendViolation
    split <;> simp [evalAlerts, evalAlert, latchOverflow]
  | capture p s => unfold captureBank; split <;> exact creditSafe_congr (by simp) (by simp) (by simp)
  | release p s => unfold releaseBank; split <;> exact creditSafe_congr (by simp) (by simp) (by simp)
  | edit f s =>
    rw [creditSafe_iff, creditSafe_iff]
    intro hc i
    simpa [State.shadowId] using hc i
  | reload s h =>
    rw [creditSafe_iff, creditSafe_iff]
    intro hc i
    simpa [State.shadowId] using hc i
  | stage f s he ha =>
    rw [creditSafe_iff, creditSafe_iff]
    intro hc i
    simpa [ha] using hc i
  | swap j s h hv =>
    rw [creditSafe_iff, creditSafe_iff]
    intro _ i
    simpa [swapBanks, latchCommitDone, evalAlert, finishCommand, freshAccounts] using freshBucket_safe _
  | credit k i n s h =>
    rw [creditSafe_iff, creditSafe_iff]
    intro hc j
    have hj := hc j
    by_cases e : s.bc.active = k
    · by_cases e' : j = i
      · subst e e'
        rw [h] at hj
        simpa using lowered_safe hj
      · simpa [e, e'] using hj
    · simpa [e] using hj
  | refill s =>
    rw [creditSafe_iff, creditSafe_iff]
    intro hc i
    simpa [refillBuckets] using refilled_safe (hc i)
  | _ =>
    refine creditSafe_congr ?_ ?_ ?_ <;>
      simp [removeViolations, latchSegmentEvent, clearPortFlags, evalAlerts, evalAlert, finishCommand, startLong, failCommit]

/-! ## The items of both banks -/

/-- Every item of both banks keeps passing its field checks (R2, R13). -/
theorem Effect.banksSafe {s t : State} (h : Effect s t) : BanksSafe s → BanksSafe t := by
  induction h with
  | same h => intro hb k; rw [h.bank]; exact hb k
  | trans _ _ ih ih' => exact fun hq => ih' (ih hq)
  | append v s =>
    obtain ⟨_, _, _, _, h5, _⟩ := appendViolation_other v s
    intro hb k
    rw [h5]
    exact hb k
  | capture p s => unfold captureBank; split <;> simp [BanksSafe]
  | release p s => unfold releaseBank; split <;> simp [BanksSafe]
  | edit f s hf hl he =>
    intro hb k
    by_cases e : k = s.shadowId
    · subst e
      simpa using hf _ (hb _)
    · simpa [e] using hb k
  | reload s h =>
    intro hb k
    by_cases e : k = s.shadowId
    · subst e
      simpa using hb _
    · simpa [e] using hb k
  | refill s => exact id
  | _ =>
    intro hb k
    simpa [removeViolations, latchSegmentEvent, clearPortFlags, evalAlert, finishCommand, startLong, failCommit, swapBanks,
      latchCommitDone] using hb k

end Sys2Proof.Machine
end

