-- ==== Sys2Proof/Laws/Jobs.lean ====
section
/-!
SUPPORT. What the end of a close procedure, a quarantine or a disable does to the long commands that wait on the segment: it
changes slots and commands alone, port by port; and the refusal of a waiter list.
-/

namespace Sys2Proof.Machine

/-- One port's command sees the report of a segment that is in the state reported. -/
theorem completeJob_eq (g : SegId) (t : SegState) (r : QuarantineReason) (p : Port) (s : State)
    (hg : (s.seg.get g).state = t) :
    completeJob g t r p s =
      { s with
        slot := s.slot.set p (s.jobAfter g t r p).1, job := s.job.set p (s.jobAfter g t r p).2 } := by
  have same : ({ s with slot := s.slot.set p (s.slot.get p), job := s.job.set p (s.job.get p) } : State) = s := by
    rw [PerPort.set_get, PerPort.set_get]
  unfold completeJob State.jobAfter
  cases hj : s.job.get p with
  | none => rw [hj] at same; exact same.symm
  | some j =>
    rw [hj] at same
    cases j with
    | commit => exact same.symm
    | shadowReload => exact same.symm
    | segmentDisable h =>
      dsimp only
      by_cases hc : h = g ∧ t = .disabled <;> simp only [hc, if_false] <;> first | rfl | exact same.symm
    | segmentEnable h =>
      dsimp only
      by_cases hc : h = g <;> simp only [hc, if_true, if_false] <;> first | rfl | exact same.symm
    | segmentRelease h =>
      dsimp only
      by_cases hc : h = g <;> simp only [hc, if_true, if_false] <;> first | rfl | exact same.symm
    | abortAll n l =>
      dsimp only
      by_cases hc : g ∈ l
      · rw [if_pos hc, if_pos hc]
        by_cases h2 : l.erase g = []
        · rw [if_pos h2, if_pos h2]
          have : abortPayload n s = BitVec.ofNat 8 n :: [SegId.seg0, .seg1, .seg2, .seg3].map fun h =>
              SegState.code (if h = g then t else (s.seg.get h).state) := by
            subst hg; cases g <;> simp [abortPayload, segStates] <;> exact ⟨rfl, rfl, rfl, rfl⟩
          rw [this]; rfl
        · rw [if_neg h2, if_neg h2]; dsimp only; rw [PerPort.set_get]; rfl
      · rw [if_neg hc, if_neg hc]; exact same.symm

/-- Both ports' commands see the report. -/
theorem completeJobs_eq (g : SegId) (t : SegState) (r : QuarantineReason) (s : State) (hg : (s.seg.get g).state = t) :
    completeJobs g t r s =
      { s with
        slot := ⟨(s.jobAfter g t r .up0).1, (s.jobAfter g t r .up1).1⟩,
        job := ⟨(s.jobAfter g t r .up0).2, (s.jobAfter g t r .up1).2⟩ } := by
  unfold completeJobs
  rw [completeJob_eq g t r .up0 s hg, completeJob_eq g t r .up1 _ (by exact hg)]
  rfl

/-- The report rests on the long commands, the slots and the states of the segments. -/
theorem jobAfter_congr (g : SegId) (x : SegState) (r : QuarantineReason) (p : Port) (s t : State)
    (h1 : t.job = s.job) (h2 : t.slot = s.slot) (h3 : ∀ h, h ≠ g → (t.seg.get h).state = (s.seg.get h).state) :
    t.jobAfter g x r p = s.jobAfter g x r p := by
  have h4 : (fun h => SegState.code (if h = g then x else (t.seg.get h).state)) =
      fun h => SegState.code (if h = g then x else (s.seg.get h).state) := by
    funext h
    by_cases e : h = g
    · simp [e]
    · simp [e, h3 h e]
  unfold State.jobAfter
  rw [h1, h2, h4]

/-- The refusals of a list rest on the parts of its ports and the banks they are judged by. -/
theorem refusedIn_congr (l : List Port) (q : ViolationQueue) (t s : State)
    (h : ∀ p ∈ l, t.part p = s.part p ∧ t.judged p = s.judged p) : t.refusedIn l q = s.refusedIn l q := by
  induction l generalizing q with
  | nil => rfl
  | cons p l ih =>
    have e : t.recordedIn p .segmentUnavailable .refused q = s.recordedIn p .segmentUnavailable .refused q := by
      obtain ⟨a, b⟩ := h p (by simp)
      unfold State.recordedIn State.violationOf
      rw [a, b]
    have e' := ih (s.recordedIn p .segmentUnavailable .refused q) fun x hx => h x (by simp [hx])
    unfold State.refusedIn at e' ⊢
    rw [List.foldl_cons, List.foldl_cons, e]
    exact e'

/-- Ports refused one after the other: each is answered NACK into DISCARD with its record, the others are left alone
(R29, R99). -/
theorem refuseAll_eq (l : List Port) (s : State) (hn : l.Nodup) :
    ∃ W, l.foldl (fun s p => refuseAddress p .segmentUnavailable none s) s = W ∧
      W =
        { s with
          queue := s.refusedIn l s.queue, flags := W.flags, alert := W.alert, upi := W.upi, session := W.session } ∧
      (∀ p, p ∉ l → W.session.get p = s.session.get p ∧ W.upi.get p = s.upi.get p) ∧
      ∀ p ∈ l, (s.upi.get p).hold = true → (s.session.get p).owned = none →
        Discarding p W ∧ (W.part p).decision = some (.refused .segmentUnavailable) := by
  induction l generalizing s with
  | nil => exact ⟨s, rfl, rfl, fun _ _ => ⟨rfl, rfl⟩, fun p h => by cases h⟩
  | cons p l ih =>
    obtain ⟨f, a, hr⟩ := refuseAddress_eq p .segmentUnavailable none s
    have hp : p ∉ l := (List.nodup_cons.mp hn).1
    obtain ⟨W, e, h1, h2, h3⟩ := ih (refuseAddress p .segmentUnavailable none s) (List.nodup_cons.mp hn).2
    refine ⟨W, by rw [List.foldl_cons]; exact e, ?_, fun q hq => ?_, fun q hq hh ho => ?_⟩
    · rw [refusedIn_congr l _ _ s fun x hx => by
          have hx1 : x ≠ p := fun h => hp (h ▸ hx)
          rw [hr]
          simp [State.part, State.judged, State.judgedId, hx1]] at h1
      have hq : (refuseAddress p .segmentUnavailable none s).queue = s.recordedIn p .segmentUnavailable .refused s.queue := by
        rw [hr]; rfl
      rw [hq] at h1
      conv => lhs; rw [h1]
      rw [hr]; rfl
    · have hq1 : q ≠ p := fun h => hq (by simp [h])
      obtain ⟨a, b⟩ := h2 q fun h => hq (by simp [h])
      exact ⟨a.trans (by rw [hr]; simp [hq1]), b.trans (by rw [hr]; simp [hq1])⟩
    · rcases List.mem_cons.mp hq with rfl | hq
      · obtain ⟨a, b⟩ := h2 q hp
        have hs : W.settings = s.settings := by rw [h1, hr]
        have line := discard_line (s.part q).direction s.settings.filler
        unfold Discarding State.part
        rw [a, b, hs, hr]
        simpa [hh, ho] using line
      · have hq1 : q ≠ p := fun h => hp (h ▸ hq)
        exact h3 q hq (by rw [hr]; simpa [hq1] using hh) (by rw [hr]; simpa [hq1] using ho)

/-- The list of a segment is emptied and its ports are refused in list order (R99). -/
theorem refuseWaiters_eq (g : SegId) (s : State) (hw : s.waitersHeld (s.seg.get g).waiters) :
    ∃ W, refuseWaiters g s = W ∧
      W =
        { s with
          seg := s.seg.set g { s.seg.get g with waiters := [] },
          queue := s.refusedIn (s.seg.get g).waiters s.queue, flags := W.flags, alert := W.alert, upi := W.upi,
          session := W.session } ∧
      Refused (s.seg.get g).waiters s W := by
  obtain ⟨W, e, h1, h2, h3⟩ := refuseAll_eq (s.seg.get g).waiters (s.updSeg g fun c => { c with waiters := [] }) hw.1
  exact ⟨W, e, h1, fun p hp => h3 p hp (hw.2 p hp).1 (hw.2 p hp).2, h2⟩

end Sys2Proof.Machine
end

