-- ==== Sys2Proof/Laws/Lookup.lean ====
section
/-!
SUPPORT. What a search of the filter entries finds: none, the only one, or the one of lowest index.
-/

namespace Sys2Proof.Machine

/-- No entry is found exactly if none has the property. -/
theorem findEntry_none (k : Bank) (f : Entry → Bool) :
    findEntry k f = none ↔ ∀ i, f (tableGet k.entries i) = false := by
  unfold findEntry; rw [List.find?_eq_none]; simp

/-- The only entry with the property is found. -/
theorem findEntry_unique (k : Bank) (f : Entry → Bool) (i : EntryIdx) (h : f (tableGet k.entries i) = true)
    (h' : ∀ j, f (tableGet k.entries j) = true → j = i) : findEntry k f = some i := by
  cases e : findEntry k f with
  | none => rw [findEntry_none] at e; rw [e i] at h; cases h
  | some j =>
    unfold findEntry at e
    have := List.find?_some e
    rw [h' j this]

/-- The entry of lowest index with the property is found. -/
theorem findEntry_least (k : Bank) (f : Entry → Bool) (i : EntryIdx) (h : f (tableGet k.entries i) = true)
    (h' : ∀ j, f (tableGet k.entries j) = true → i ≤ j) : findEntry k f = some i := by
  cases e : findEntry k f with
  | none => rw [findEntry_none] at e; rw [e i] at h; cases h
  | some j =>
    unfold findEntry at e
    have hj := List.find?_some e
    rw [List.find?_eq_some_iff_append] at e
    obtain ⟨_, as, bs, e, h2⟩ := e
    have hle := h' j hj
    rcases lt_or_eq_of_le hle with x | x
    · exfalso
      have hs : (as ++ j :: bs).Pairwise (· < ·) := e ▸ List.pairwise_lt_finRange 128
      rw [List.pairwise_append] at hs
      have hm : i ∈ as ++ j :: bs := e ▸ List.mem_finRange i
      rcases List.mem_append.mp hm with y | y
      · have := h2 i y; rw [h] at this; cases this
      · rcases List.mem_cons.mp y with y | y
        · subst y; exact lt_irrefl _ x
        · have := (List.pairwise_cons.mp hs.2.1).1 i y
          exact absurd x (not_lt.mpr this.le)
    · rw [x]

end Sys2Proof.Machine
end

