-- ==== Sys2Proof/Laws/SeatsStep.lean ====
section
/-!
SUPPORT. Every command keeps owners and waiters where they may be.
-/

namespace Sys2Proof.Machine

/-! ## The address judgement -/

theorem ebb_addressViolation (p : Port) (i : EntryIdx) (e : Entry) (r : Reason) (x : Option Half) (s : State) :
    Ebb s (addressViolation p i e r x s).1 := by
  have h : Ebb s (countViolation p i s) := ebb_of_eq rfl rfl
  unfold addressViolation
  dsimp only
  split
  · exact h
  · exact h.trans (ebb_makeRecord p r .passed x _)

theorem ebb_andThen {s : State} {x : Judged} {f : State → Judged} (h : Ebb s x.1) (h' : ∀ t, Ebb t (f t).1) :
    Ebb s (andThen x f).1 := by
  unfold andThen
  split
  · exact h
  · exact h.trans (h' _)

theorem ebb_accessStep (p : Port) (i : EntryIdx) (e : Entry) (c : Bool) (s : State) : Ebb s (accessStep p i e c s).1 := by
  unfold accessStep
  split
  · exact ebb_addressViolation p i e _ _ s
  · split
    · exact .refl s
    · exact ebb_addressViolation p i e _ _ s

theorem ebb_readListStep (p : Port) (i : EntryIdx) (e : Entry) (s : State) : Ebb s (readListStep p i e s).1 := by
  unfold readListStep
  split
  · split
    · exact ebb_addressViolation p i e _ _ s
    · split
      · exact ebb_addressViolation p i e _ _ s
      · exact .refl s
  all_goals exact .refl s

theorem ebb_creditStep (p : Port) (i : EntryIdx) (e : Entry) (s : State) : Ebb s (creditStep p i e s).1 := by
  unfold creditStep
  split
  · exact .refl s
  · split
    · exact ebb_of_eq rfl rfl
    · exact ebb_addressViolation p i e _ _ s
    · exact ebb_addressViolation p i e _ _ s

theorem ebb_setDecision (p : Port) (d : Decision) (g : SegId) (a : Addr) (s : State) (h : NotWaiting p s) :
    Ebb s (setDecision p d g a s) := by
  unfold setDecision State.updPart
  exact ebb_updFree s p _ h (Or.inl rfl)

theorem ebb_judgeEntry (p : Port) (i : EntryIdx) (c : Bool) (s : State) (h : NotWaiting p s) :
    Ebb s (judgeEntry p i c s).1 :=
  ebb_andThen (ebb_andThen ((ebb_setDecision p _ _ _ s h).trans (ebb_accessStep p i _ c _))
    fun t => ebb_readListStep p i _ t) fun t => ebb_creditStep p i _ t

theorem ebb_judgeAddress (p : Port) (s : State) (h : NotWaiting p s) : Ebb s (judgeAddress p s).1 := by
  unfold judgeAddress
  dsimp only
  split
  · split
    · exact ebb_setDecision p _ _ _ s h
    · exact .refl s
  · split
    · exact .refl s
    · split
      · exact ebb_judgeEntry p _ false s h
      · split
        · exact ebb_judgeEntry p _ true s h
        · split
          · exact ebb_setDecision p _ _ _ s h
          · exact .refl s

theorem seats_settleAddress (p : Port) (s : State) (hs : Seats s) (hn : NotWaiting p s) :
    Seats (settleAddress p s) := by
  have e := ebb_judgeAddress p s hn
  unfold settleAddress
  split
  · rename_i h
    rw [h] at e
    have e' := e.trans (ebb_releaseSegment p _ (e.seats hs))
    exact (e'.trans (ebb_refuseAddress p _ _ _ (e'.notWaiting hn))).seats hs
  · rename_i h
    rw [h] at e
    exact seats_forwardPart p _ (e.seats hs) (e.notWaiting hn)

theorem ebb_refuseFirstByte (p : Port) (s : State) (hs : Seats s) (hn : NotWaiting p s) :
    Ebb s (refuseFirstByte p s) := by
  have e := ebb_releaseSegment p s hs
  exact e.trans (ebb_refuseAddress p _ _ _ (e.notWaiting hn))

theorem ebb_presentSlotByte (p : Port) (s : State) : Ebb s (presentSlotByte p s) := by
  unfold presentSlotByte
  split
  · exact (ebb_presentByte p _ s).trans (ebb_countByte p _)
  · exact ((ebb_setReadback s p _).trans (ebb_presentByte p _ _)).trans (ebb_countByte p _)

theorem ebb_enterManagement (p : Port) (b : Byte) (s : State) (hs : Seats s) (hn : NotWaiting p s) :
    Ebb s (enterManagement p b s) := by
  have e := ((ebb_releaseSegment p s hs).trans (ebb_releaseWith p .ack _)).trans
    (ebb_updPart _ p (fun t => { t with decision := some .management }) rfl)
  have e := e.trans (ebb_setSessionState _ p .mgmt (e.notWaiting hn))
  unfold enterManagement
  dsimp only
  split
  · exact e.trans (ebb_updParser _ p _)
  · exact e.trans ((ebb_setReadback _ p _).trans (ebb_presentSlotByte p _))

theorem ebb_discardManagement (p : Port) (s : State) (hs : Seats s) (hn : NotWaiting p s) :
    Ebb s (discardManagement p s) := by
  have e := ((ebb_releaseSegment p s hs).trans
    (ebb_updPart _ p (fun t => { t with decision := some .management }) rfl)).trans (ebb_releaseWith p .nack _)
  exact e.trans (ebb_enterDiscard p _ (e.notWaiting hn))

theorem ebb_captureBank (p : Port) (s : State) : Ebb s (captureBank p s) := by
  unfold captureBank
  split
  · exact .refl s
  · exact (ebb_updSession s p _ rfl rfl rfl).trans (ebb_updBc _ _)

theorem ebb_releaseBank (p : Port) (s : State) : Ebb s (releaseBank p s) := by
  unfold releaseBank
  split
  · exact .refl s
  · exact (ebb_updSession s p _ rfl rfl rfl).trans (ebb_updBc _ _)

theorem ebb_setAddress (p : Port) (k : AddrKind) (a : Addr) (s : State) : Ebb s (setAddress p k a s) :=
  ebb_updPart s p _ rfl

theorem seats_sevenBitAddress (p : Port) (b : Byte) (s : State) (hs : Seats s) (hn : NotWaiting p s) :
    Seats (sevenBitAddress p b s) := by
  have e := (ebb_setAddress p .seven (addr7 (addressBits b)) s).trans (ebb_beginHold p _)
  unfold sevenBitAddress
  dsimp only
  split
  · split
    · exact (e.trans (ebb_enterManagement p b _ (e.seats hs) (e.notWaiting hn))).seats hs
    · exact (e.trans (ebb_discardManagement p _ (e.seats hs) (e.notWaiting hn))).seats hs
  · exact seats_settleAddress p _ (e.seats hs) (e.notWaiting hn)

theorem seats_tenBitWriteFirst (p : Port) (b : Byte) (s : State) (hs : Seats s) (hn : NotWaiting p s) :
    Seats (tenBitWriteFirst p b s) := by
  have e := ebb_setAddress p .ten (addr10 (highBits b) 0) s
  unfold tenBitWriteFirst
  dsimp only
  split
  · exact ((e.trans (ebb_updPart _ p (fun t => { t with held := some b }) rfl)).trans (ebb_updUpi _ p _)).seats hs
  · exact (e.trans (ebb_refuseFirstByte p _ (e.seats hs) (e.notWaiting hn))).seats hs

theorem seats_tenBitWriteSecond (p : Port) (first b : Byte) (s : State) (hs : Seats s) (hn : NotWaiting p s) :
    Seats (tenBitWriteSecond p first b s) := by
  have e := ((ebb_setAddress p .ten (addr10 (highBits first) b) s).trans
    (ebb_updPart _ p (fun t => { t with held := none }) rfl)).trans (ebb_beginHold p _)
  exact seats_settleAddress p _ (e.seats hs) (e.notWaiting hn)

theorem seats_tenBitRead (p : Port) (b : Byte) (s : State) (hs : Seats s) (hn : NotWaiting p s) :
    Seats (tenBitRead p b s) := by
  have e (a : Addr) := (ebb_setAddress p .ten a s).trans (ebb_beginHold p _)
  have r : Seats (refuseFirstByte p (beginHold p (setAddress p .ten (addr10 (highBits b) 0) s))) :=
    ((e _).trans (ebb_refuseFirstByte p _ ((e _).seats hs) ((e _).notWaiting hn))).seats hs
  unfold tenBitRead
  dsimp only
  split
  · split
    · exact seats_settleAddress p _ ((e _).seats hs) ((e _).notWaiting hn)
    · exact r
  · exact r

theorem seats_takeAddressByte (p : Port) (b : Byte) (s : State) (hs : Seats s) : Seats (takeAddressByte p b s) := by
  unfold takeAddressByte firstAddressByte
  split
  · rename_i h
    have hn := hs.notWaiting (p := p) (by rw [h]; decide)
    have e : Ebb s (beginPart p b s) := by
      have e := ebb_captureBank p s
      unfold beginPart State.updPart
      exact e.trans (ebb_updFree _ p _ (e.notWaiting hn) (Or.inl rfl))
    split
    · exact seats_tenBitWriteSecond p _ b s hs hn
    · dsimp only
      split
      · split
        · exact seats_tenBitWriteFirst p b _ (e.seats hs) (e.notWaiting hn)
        · exact seats_tenBitRead p b _ (e.seats hs) (e.notWaiting hn)
      · exact seats_sevenBitAddress p b _ (e.seats hs) (e.notWaiting hn)
  · exact hs

/-! ## The relay -/

theorem ebb_driveNinth (p : Port) (a : Ack) (s : State) : Ebb s (driveNinth p a s) := ebb_of_eq rfl rfl

theorem ebb_endWithNack (p : Port) (s : State) (hs : Seats s) (hn : NotWaiting p s) : Ebb s (endWithNack p s) := by
  have e := ebb_releaseWith p .nack s
  have e := e.trans (ebb_releaseSegment p _ (e.seats hs))
  exact e.trans (ebb_enterDiscard p _ (e.notWaiting hn))

theorem ebb_dataViolation (p : Port) (i : EntryIdx) (e : Entry) (r : Reason) (x : Option Half) (s : State) :
    Ebb s (dataViolation p i e r x s).1 := by
  unfold dataViolation
  split <;> exact (ebb_updAccount s _ _ _).trans (ebb_makeRecord p r _ x _)

theorem ebb_windowCheck (p : Port) (i : EntryIdx) (e : Entry) (r : Reason) (l : Option WindowList) (x : Option Half)
    (s : State) : Ebb s (windowCheck p i e r l x s).1 := by
  unfold windowCheck
  split
  · split
    · exact .refl s
    · exact ebb_dataViolation p i e r _ s
  · exact .refl s

theorem ebb_lengthCheck (p : Port) (i : EntryIdx) (e : Entry) (r : Reason) (l : Option Byte) (x : Option Half)
    (s : State) : Ebb s (lengthCheck p i e r l x s).1 := by
  unfold lengthCheck
  split
  · split
    · exact ebb_dataViolation p i e r x s
    · exact .refl s
  · exact .refl s

theorem ebb_andCheck {s : State} {x : Checked} {f : State → Checked} (h : Ebb s x.1) (h' : ∀ t, Ebb t (f t).1) :
    Ebb s (andCheck x f).1 := by
  unfold andCheck
  split
  · exact h
  · exact h.trans (h' _)

theorem ebb_driveBytes (p : Port) (b : Byte) (l : List Byte) (s : State) : Ebb s (driveBytes p b l s) := by
  unfold driveBytes
  split
  · exact .refl s
  · exact ebb_updSeg s _ _ rfl rfl (List.Sublist.refl _)

theorem ebb_finishWriteByte (p : Port) (b : Byte) (held : Option Byte) (x : Checked) (hs : Seats x.1)
    (hn : NotWaiting p x.1) : Ebb x.1 (finishWriteByte p b held x) := by
  have e := (ebb_countWriteByte p x.1).trans (ebb_updPart _ p (fun t => { t with held := none }) rfl)
  unfold finishWriteByte
  dsimp only
  split
  · exact e.trans (ebb_endWithNack p _ (e.seats hs) (e.notWaiting hn))
  · split <;> exact e.trans (ebb_driveBytes p _ _ _)

theorem ebb_relayWriteByte (p : Port) (b : Byte) (s : State) (hs : Seats s) (hn : NotWaiting p s) :
    Ebb s (relayWriteByte p b s) := by
  have fin (held : Option Byte) (x : Checked) (e : Ebb s x.1) : Ebb s (finishWriteByte p b held x) :=
    e.trans (ebb_finishWriteByte p b held x (e.seats hs) (e.notWaiting hn))
  unfold relayWriteByte
  split
  · exact fin none (_, false) (ebb_beginHold p s)
  · dsimp only
    split
    · have e := (ebb_updPart s p (fun t => { t with sub := t.sub ++ [b] }) rfl).trans
        (ebb_updPart _ p (fun t => { t with held := some b }) rfl)
      have e := e.trans (ebb_countWriteByte p _)
      exact e.trans (ebb_driveNinth p _ _)
    · split
      · exact fin _ _ (((ebb_beginHold p s).trans (ebb_updPart _ p (fun t => { t with sub := t.sub ++ [b] }) rfl)).trans
          (ebb_windowCheck p _ _ _ _ _ _))
      · exact fin none _ ((ebb_beginHold p s).trans
          (ebb_andCheck (ebb_windowCheck p _ _ _ _ _ _) fun t => ebb_lengthCheck p _ _ _ _ _ t))

theorem ebb_clockNinth (g : SegId) (a : Ack) (s : State) : Ebb s (clockNinth g a s) := by
  unfold clockNinth
  refine ebb_updSeg s g _ ?_ ?_ ?_ ?_
  · split <;> rfl
  · split <;> rfl
  · split <;> exact List.Sublist.refl _
  · split <;> exact List.Sublist.refl _

theorem ebb_finishCut (p : Port) (g : SegId) (s : State) (hs : Seats s) (hn : NotWaiting p s) :
    Ebb s (finishCut p g s) := by
  have e := ebb_clockNinth g .nack s
  have e := ((e.trans (ebb_releaseSegment p _ (e.seats hs))).trans (ebb_presentFiller p _)).trans (ebb_releaseHold p _)
  exact e.trans (ebb_setSessionState _ p .fill (e.notWaiting hn))

theorem ebb_readChecks (p : Port) (s : State) : Ebb s (readChecks p s).1 := by
  unfold readChecks
  split
  · exact .refl s
  · exact ebb_andCheck (ebb_windowCheck p _ _ _ _ _ s) fun t => ebb_lengthCheck p _ _ _ _ _ t

theorem ebb_setAct (g : SegId) (a : Option SegAct) (s : State) : Ebb s (s.updSeg g fun c => { c with act := a }) :=
  ebb_updSeg s g _ rfl rfl (List.Sublist.refl _)

theorem ebb_requestByte (p : Port) (g : SegId) (first : Bool) (s : State) (hs : Seats s) (hn : NotWaiting p s) :
    Ebb s (requestByte p g first s) := by
  have e := (ebb_beginHold p s).trans (ebb_readChecks p _)
  unfold requestByte
  dsimp only
  split
  · split
    · exact e.trans (ebb_setAct g _ _)
    · exact e.trans (ebb_finishCut p g _ (e.seats hs) (e.notWaiting hn))
  · exact e.trans ((ebb_clockNinth g .ack _).trans (ebb_setAct g _ _))

theorem ebb_advancePointer (p : Port) (s : State) : Ebb s (advancePointer p s) := by
  unfold advancePointer
  split
  · exact .refl s
  · split
    · exact .refl s
    · exact ebb_updSession s p _ rfl rfl rfl

theorem ebb_writeAcknowledged (p : Port) (s : State) : Ebb s (writeAcknowledged p s) := by
  unfold writeAcknowledged
  split
  · exact .refl s
  · split
    · exact ebb_updSession s p _ rfl rfl rfl
    · exact ebb_advancePointer p s

theorem ebb_receiveByte (p : Port) (g : SegId) (b : Byte) (cut : Bool) (s : State) (hs : Seats s)
    (hn : NotWaiting p s) : Ebb s (receiveByte p g b cut s) := by
  have e := (ebb_advancePointer p s).trans
    (ebb_updSeg _ g (fun c => { c with act := none, ninthOwed := true }) rfl rfl (List.Sublist.refl _))
  unfold receiveByte
  dsimp only
  split
  · exact e.trans (ebb_finishCut p g _ (e.seats hs) (e.notWaiting hn))
  · exact e.trans (((ebb_presentByte p b _).trans (ebb_countByte p _)).trans
      ((ebb_updPart _ p (fun t => { t with length := min 256 (t.length + 1) }) rfl).trans (ebb_releaseHold p _)))

theorem ebb_addressAcknowledged (p : Port) (g : SegId) (s : State) (hs : Seats s) (hn : NotWaiting p s) :
    Ebb s (addressAcknowledged p g s) := by
  have e : Ebb s (match Decision.entry? (s.part p).decision with
      | some i => countHit p i s
      | none => s) := by
    split
    · exact ebb_of_eq rfl rfl
    · exact .refl s
  have e := e.trans ((ebb_setAct g none _).trans (ebb_releaseWith p .ack _))
  have w (t : SessionState) := e.trans (ebb_setSessionState _ p t (e.notWaiting hn))
  unfold addressAcknowledged
  dsimp only
  split
  · split
    · exact (w .write).trans (ebb_updSession _ p _ rfl rfl rfl)
    · exact w .write
  · have w' := (w .read).trans (ebb_updUpi _ p fun u => { u with phase := .send })
    exact w'.trans (ebb_requestByte p g true _ (w'.seats hs) (w'.notWaiting hn))

theorem ebb_forOwner {g : SegId} {act : Port → State → State} {s : State} (hs : Seats s)
    (h : ∀ p, (s.session.get p).owned = some g → NotWaiting p s → Ebb s (act p s)) : Ebb s (forOwner g act s) := by
  unfold forOwner
  split
  · split
    · rename_i e
      exact h _ e (hs.ownerNotWaiting e)
    · exact .refl s
  · exact .refl s

/-! ## Commands -/

theorem ebb_clearPortFlags (p : Port) (s : State) : Ebb s (clearPortFlags p s) := ebb_of_eq rfl rfl

theorem ebb_staged {p : Port} {take : State → State} {s : State} (h : Ebb s (take s)) : Ebb s (staged p take s) := by
  unfold staged
  split
  · exact ebb_finishCommand p _ _ s
  · split
    · exact ebb_finishCommand p _ _ s
    · exact h

theorem ebb_disableSegment (p : Port) (g : SegId) (s : State) (hs : Seats s) : Ebb s (disableSegment p g s) := by
  have e := ebb_applyDisable g s hs
  unfold disableSegment
  split
  · exact e.trans (ebb_finishCommand p _ _ _)
  · exact e.trans (ebb_finishCommand p _ _ _)
  · exact e.trans (ebb_finishCommand p _ _ _)
  · exact e.trans (ebb_startLong p _ _)
  · exact e.trans (ebb_startLong p _ _)

theorem ebb_abortSessions (s : State) (hs : Seats s) : Ebb s (abortSessions s) := by
  have both (p q : Port) (t : State) (e : Ebb s t) : Ebb s (abortSession q (abortSession p t)) := by
    have e1 := e.trans (ebb_abortSession p t (e.seats hs))
    exact e1.trans (ebb_abortSession q _ (e1.seats hs))
  unfold abortSessions
  split
  · split
    · exact both _ _ _ (ebb_of_eq rfl rfl)
    · exact both _ _ _ (ebb_of_eq rfl rfl)
  · exact both _ _ _ (.refl s)

theorem ebb_touchIdle (p : Port) (s : State) : Ebb s (touchIdle p s) := by
  unfold touchIdle
  split
  · exact ebb_of_eq rfl rfl
  · exact .refl s

theorem ebb_perform (p : Port) (c : MgmtCommand) (args : List Byte) (s : State) (hs : Seats s) :
    Ebb s (perform p c args s) := by
  have fin (t : Status) (l : List Byte) : Ebb s (finishCommand p t l s) := ebb_finishCommand p t l s
  have edit (x : Option (Bank → Bank)) : Ebb s (staged p (editShadow p x) s) :=
    ebb_staged (by unfold editShadow; split <;> exact ebb_of_eq rfl rfl)
  have onSeg (b : Byte) (take : SegId → State → State) (h : ∀ g, Ebb s (take g s)) : Ebb s (onSegment p b take s) := by
    unfold onSegment
    split
    · exact h _
    · exact fin _ _
  have read (b : Byte) (item : Bank → Option (List Byte)) : Ebb s (readBank p b item s) := by
    unfold readBank
    dsimp only
    repeat' split
    all_goals exact fin _ _
  have answer (x : Option (List Byte)) : Ebb s (answerRead p x s) := by
    unfold answerRead
    split <;> exact fin _ _
  unfold perform
  cases c
  · show Ebb s (openSession p s)
    unfold openSession
    split
    · split
      · exact ebb_of_eq rfl rfl
      · exact fin _ _
    · exact ebb_of_eq rfl rfl
  · show Ebb s (closeSession p s)
    unfold closeSession
    split
    · exact ebb_of_eq rfl rfl
    · exact fin _ _
  · show Ebb s (readStatus p _ s)
    unfold readStatus
    split
    · exact fin _ _
    · rename_i c _
      cases c
      · exact fin _ _
      · exact (fin _ _).trans (ebb_clearPortFlags p _)
  · exact fin _ _
  · exact fin _ _
  · exact fin _ _
  · exact read _ _
  · exact read _ _
  · exact read _ _
  · exact answer _
  · exact answer _
  · exact edit _
  · exact edit _
  · exact edit _
  · exact edit _
  · exact ebb_staged (ebb_of_eq rfl rfl)
  · exact ebb_staged (ebb_of_eq rfl rfl)
  · exact ebb_staged (ebb_of_eq rfl rfl)
  · exact ebb_of_eq (by simp [ackViolations, finishCommand, removeViolations, evalAlerts, evalAlert])
      (by simp [ackViolations, finishCommand, removeViolations, evalAlerts, evalAlert])
  · exact ebb_of_eq rfl rfl
  · show Ebb s (writeSettings p args s)
    unfold writeSettings
    split
    · exact ebb_of_eq (by simp [finishCommand, evalAlerts, evalAlert]) (by simp [finishCommand, evalAlerts, evalAlert])
    · exact fin _ _
  · exact onSeg _ _ fun g => ebb_disableSegment p g s hs
  · refine onSeg _ _ fun g => ?_
    unfold enableSegment
    split
    · rename_i h
      exact (ebb_startClose g s (hs.unowned (by rw [h]; decide))).trans (ebb_startLong p _ _)
    · exact fin _ _
  · refine onSeg _ _ fun g => ?_
    unfold reopenSegment
    split
    · rename_i h
      exact (ebb_startClose g s (hs.unowned (by rw [h]; decide))).trans (ebb_startLong p _ _)
    · exact fin _ _
  · show Ebb s (abortAllParts p s)
    unfold abortAllParts
    split
    · exact (ebb_abortSessions s hs).trans (ebb_finishCommand p _ _ _)
    · exact (ebb_abortSessions s hs).trans (ebb_startLong p _ _)

theorem ebb_runCommand (p : Port) (c : MgmtCommand) (args : List Byte) (s : State) (hs : Seats s) :
    Ebb s (runCommand p c args s) := by
  have e := ebb_touchIdle p s
  unfold runCommand
  split
  · dsimp only
    split
    · exact e.trans (ebb_finishCommand p _ _ _)
    · exact e.trans (ebb_perform p c args _ (e.seats hs))
  · exact ebb_finishCommand p _ _ s

theorem ebb_viaFrame (p : Port) (c : MgmtCommand) (args : List Byte) (s : State) (hs : Seats s) :
    Ebb s (viaFrame p c args s) := by
  unfold viaFrame
  split
  · exact ebb_runCommand p c args s hs
  · exact .refl s

theorem ebb_endPartFrame (p : Port) (s : State) (hs : Seats s) : Ebb s (endPartFrame p s) := by
  have e := ebb_updParser s p fun _ => freshParser
  unfold endPartFrame endFrame
  split
  · refine e.trans ?_
    unfold frameOutcome
    split
    · exact .refl _
    · exact .refl _
    · exact ebb_finishCommand p _ _ _
    · exact ebb_finishCommand p _ _ _
    · exact ebb_finishCommand p _ _ _
    · exact ebb_finishCommand p _ _ _
    · split
      · unfold runFrame
        split
        · exact ebb_runCommand p _ _ _ (e.seats hs)
        · exact ebb_finishCommand p _ _ _
      · exact ebb_of_eq rfl rfl
  · exact .refl s

/-! ## Events -/

theorem Seats.open {s : State} {p : Port} (hs : Seats s) (h : s.free p = true) : NotWaiting p s :=
  hs.notWaiting fun e => by
    unfold State.free at h
    rw [e] at h
    simp [SessionState.open] at h

theorem ebb_receiveByteNext (p : Port) (s : State) : Ebb s (receiveByteNext p s) := ebb_of_eq rfl rfl

theorem ebb_closeRecord (p : Port) (s : State) (h : NotWaiting p s) : Ebb s (closeRecord p s) :=
  (ebb_updFree s p _ h (Or.inr rfl)).trans ((ebb_updUpi _ p _).trans (ebb_setReadback _ p _))

theorem ebb_takeRestart (p : Port) (s : State) (hs : Seats s) : Ebb s (takeRestart p s) := by
  unfold takeRestart
  split
  · rename_i h
    have e := ebb_endPartFrame p s hs
    have e := e.trans (ebb_updFree _ p (fun e => { e with state := .address, part := noPart }) (e.notWaiting (hs.open h))
      (Or.inl rfl))
    exact (e.trans (ebb_setReadback _ p [])).trans (ebb_receiveByteNext p _)
  · exact .refl s

theorem ebb_takeStart (p : Port) (s : State) (hs : Seats s) : Ebb s (takeStart p s) := by
  unfold takeStart
  split
  · rename_i h
    exact (ebb_updFree s p (fun e => { e with state := .address, abandon := some (s.limits p).abandon })
      (hs.notWaiting (by rw [h]; decide)) (Or.inl rfl)).trans (ebb_receiveByteNext p _)
  · exact ebb_takeRestart p s hs

theorem ebb_takeStop (p : Port) (s : State) (hs : Seats s) : Ebb s (takeStop p s) := by
  unfold takeStop
  split
  · rename_i h
    have e := ebb_releaseSegment p s hs
    have e := (e.trans (ebb_endPartFrame p _ (e.seats hs))).trans (ebb_releaseBank p _)
    exact e.trans (ebb_closeRecord p _ (e.notWaiting (hs.open h)))
  · exact .refl s

theorem ebb_takeDataByte (p : Port) (b : Byte) (s : State) (hs : Seats s) : Ebb s (takeDataByte p b s) := by
  unfold takeDataByte
  split
  · rename_i h
    split
    · exact ebb_relayWriteByte p b s hs (hs.open h.1)
    · exact (ebb_countWriteByte p s).trans (ebb_updUpi _ p _)
    · exact ((ebb_updParser s p _).trans (ebb_updUpi _ p _)).trans (ebb_countWriteByte p _)
    all_goals exact .refl s
  · exact .refl s

theorem ebb_takeReadNinth {p : Port} {act : State → State} {s : State} (hs : Seats s)
    (h : NotWaiting p s → Ebb s (act s)) : Ebb s (takeReadNinth p act s) := by
  unfold takeReadNinth
  split
  · rename_i hf
    split
    · exact h (hs.open hf.1)
    · exact ebb_countByte p s
    all_goals exact .refl s
  · exact .refl s

theorem ebb_askNext (p : Port) (s : State) (hs : Seats s) (hn : NotWaiting p s) : Ebb s (askNext p s) := by
  unfold askNext
  split
  · split
    · exact ebb_requestByte p _ false s hs hn
    · exact .refl s
  · exact ebb_presentFiller p s
  · exact ebb_presentFiller p s
  · exact ebb_presentSlotByte p s
  all_goals exact .refl s

theorem ebb_endRead (p : Port) (s : State) : Ebb s (endRead p s) := by
  unfold endRead
  dsimp only
  split
  · split
    · exact (ebb_clockNinth _ .nack s).trans (ebb_updUpi _ p _)
    · exact .refl s
  · exact ebb_updUpi s p _
  · exact (ebb_countByte p s).trans (ebb_updUpi _ p _)
  · exact ebb_updUpi s p _
  all_goals exact .refl s

theorem ebb_abandonSession (p : Port) (s : State) (hs : Seats s) (hn : NotWaiting p s) :
    Ebb s (abandonSession p s) := by
  have e := ebb_giveUpSegment p s hs
  have e : Ebb s (countAbandoned p (recordAbandoned p (giveUpSegment p s))) := by
    have c (t : State) : Ebb t (countAbandoned p t) := ebb_of_eq rfl rfl
    refine (e.trans ?_).trans (c _)
    unfold recordAbandoned
    split
    · exact .refl _
    · exact .refl _
    · exact .refl _
    all_goals split
    all_goals first
      | exact ebb_makeRecord p _ _ _ _
      | exact .refl _
  have e := (e.trans (ebb_endPartFrame p _ (e.seats hs))).trans (ebb_releaseBank p _)
  exact e.trans (ebb_closeRecord p _ (e.notWaiting hn))

theorem ebb_takeStretchExpiry (p : Port) (s : State) (hs : Seats s) : Ebb s (takeStretchExpiry p s) := by
  have e := ebb_answerPart p .targetTimeout s hs
  have e := e.trans (ebb_giveUpSegment p _ (e.seats hs))
  unfold takeStretchExpiry
  split
  · split
    · exact ebb_refuseWaiting p _ s hs
    · exact e
    · exact e
    · exact e
    all_goals exact .refl s
  · exact .refl s

theorem ebb_loseSegment (p : Port) (g : SegId) (s : State) (hs : Seats s) (h : (s.session.get p).owned = some g) :
    Ebb s (loseSegment p g s) := by
  have e := ebb_loseOwnership p s (hs.ownerNotWaiting h)
  have hu := unowned_loseOwnership hs h
  have first (t : State) (e' : Ebb (loseOwnership p s) t)
      (hd : (t.seg.get g).deferred = ((loseOwnership p s).seg.get g).deferred) :
      Ebb s (enterQuarantine g .foreign (answerPart p .segmentLost t)) := by
    have d := answerPart_deferred p .segmentLost g t (hd.trans hu.2)
    have e1 := e'.trans (ebb_answerPart p .segmentLost t (e'.seats (e.seats hs)))
    exact (e.trans e1).trans (ebb_enterQuarantine g _ _ (e1.seats (e.seats hs)) (e1.unowned hu (d.trans hd)))
  unfold loseSegment
  dsimp only
  split
  · split
    · exact first _ (ebb_of_eq rfl rfl) rfl
    · have e1 : Ebb (loseOwnership p s) { loseOwnership p s with choice := (loseOwnership p s).choice + 1 } :=
        ebb_of_eq rfl rfl
      have e2 := e1.trans (ebb_enterQuarantine g .foreign _ (e1.seats (e.seats hs)) (e1.unowned hu rfl))
      exact (e.trans e2).trans (ebb_answerPart p _ _ (e2.seats (e.seats hs)))
  · exact first _ (.refl _) rfl

/-- Every command keeps owners and waiters where they may be. -/
theorem exec_seats (c : Instr) (s t : State) (h : exec c s = .next t) (hs : Seats s) : Seats t := by
  have e : ∀ {u}, exec c s = .next u → t = u := fun h' => by rw [h] at h'; exact Host.Outcome.next.inj h'
  have inS {f : State → State} (h : Seats (f s)) : Seats (inService f s) := by
    unfold inService
    split
    · exact h
    · exact hs
  have closed (u : State) (h : u.session = .both idleSession) (h' : ∀ g, (u.seg.get g).waiters = [])
      (h'' : ∀ g, (u.seg.get g).deferred = []) : Seats u := by
    refine ⟨fun p g x => ?_, fun p g x => ?_, fun g => ?_, fun g x => ?_⟩
    · simp [h, idleSession] at x
    · simp [Segment.seekers, h', h''] at x
    · simp [Segment.seekers, h', h'']
    · exact absurd (h'' g) x
  have low (ph : ResetPhase) (u : State) : Seats (beginReset ph u) :=
    closed _ rfl (fun g => by simp [beginReset, cutSegment]) fun g => by simp [beginReset, cutSegment]
  have contents (a b : _) (u : State) : Seats (enterWithContents a b u) :=
    closed _ rfl (fun g => by simp [enterWithContents, enterService, resetSegment]) fun g => by
      simp [enterWithContents, enterService, resetSegment]
  have kept (a : _) (u : State) : Seats (enterWithLocked a u) :=
    closed _ rfl (fun g => by simp [enterWithLocked, enterService, resetSegment]) fun g => by
      simp [enterWithLocked, enterService, resetSegment]
  cases c
  case start p => exact e rfl ▸ inS ((ebb_takeStart p s hs).seats hs)
  case repeatedStart p => exact e rfl ▸ inS ((ebb_takeRestart p s hs).seats hs)
  case stop p => exact e rfl ▸ inS ((ebb_takeStop p s hs).seats hs)
  case addressByte p b => exact e rfl ▸ inS (seats_takeAddressByte p b s hs)
  case dataByte p b => exact e rfl ▸ inS ((ebb_takeDataByte p b s hs).seats hs)
  case upstreamReadAck p => exact e rfl ▸ inS ((ebb_takeReadNinth hs (ebb_askNext p s hs)).seats hs)
  case upstreamReadNack p => exact e rfl ▸ inS ((ebb_takeReadNinth hs fun _ => ebb_endRead p s).seats hs)
  case targetAddressAnswer g a =>
    refine e rfl ▸ inS ((ebb_forOwner hs fun p _ hn => ?_).seats hs)
    split
    · exact ebb_endWithNack p s hs hn
    · exact ebb_setAct g _ s
    · exact ebb_addressAcknowledged p g s hs hn
    · exact .refl s
  case targetWriteAnswer g a =>
    refine e rfl ▸ inS ((ebb_forOwner hs fun p _ hn => ?_).seats hs)
    split
    · exact ebb_endWithNack p s hs hn
    · exact ebb_setAct g _ s
    · exact ((ebb_setAct g none s).trans (ebb_releaseWith p .ack _)).trans (ebb_writeAcknowledged p _)
    · exact .refl s
  case readByteReceived g b =>
    refine e rfl ▸ inS ((ebb_forOwner hs fun p _ hn => ?_).seats hs)
    split
    · exact ebb_receiveByte p g b _ s hs hn
    · exact .refl s
  case waitTimerExpiry p =>
    refine e rfl ▸ inS ?_
    unfold takeWaitExpiry
    split
    · exact (ebb_refuseWaiting p _ s hs).seats hs
    · exact hs
  case stretchTimerExpiry p => exact e rfl ▸ inS ((ebb_takeStretchExpiry p s hs).seats hs)
  case abandonTimerExpiry p =>
    refine e rfl ▸ inS ?_
    unfold takeAbandonExpiry
    split
    · rename_i hf
      exact (ebb_abandonSession p s hs (hs.open hf.1)).seats hs
    · exact hs
  case holdTimerExpiry g =>
    refine e rfl ▸ inS ?_
    unfold takeHoldExpiry
    split
    · rename_i hf
      exact (ebb_enterQuarantine g _ s hs (hs.unowned (by rw [hf.1]; decide))).seats hs
    · exact hs
  case refillTick =>
    refine e rfl ▸ inS ?_
    unfold takeRefillTick
    split
    · exact (ebb_of_eq rfl rfl : Ebb s (refillBuckets s)).seats hs
    · exact hs
  case idleTimerExpiry =>
    refine e rfl ▸ inS ?_
    unfold takeIdleExpiry expireSession discardEdits
    split
    · split
      · exact (ebb_of_eq rfl rfl : Ebb s (beginReload _)).seats hs
      · exact (ebb_of_eq rfl rfl : Ebb s ((s.setHolder none).setIdle none)).seats hs
    · exact hs
  case closeSclReleased g l =>
    refine e rfl ▸ inS ?_
    unfold takeSclReleased afterScl
    split
    · split
      · exact (ebb_closeStep g _ s).seats hs
      · exact (ebb_closeStep g _ s).seats hs
    · exact hs
  case recoveryPulse g l =>
    refine e rfl ▸ inS ?_
    unfold takeRecoveryPulse afterPulse
    dsimp only
    split
    · rename_i hf
      have b := ebb_updSeg s g (fun c => { c with pulses := c.pulses + 1 }) rfl rfl (List.Sublist.refl _)
      split
      · exact (b.trans (ebb_closeStep g _ _)).seats hs
      · split
        · exact (b.trans (ebb_closeStep g _ _)).seats hs
        · exact (b.trans (ebb_enterQuarantine g _ _ (b.seats hs)
            (b.unowned (hs.unowned (by rw [hf.1]; decide)) (by simp)))).seats hs
    · exact hs
  case closeStopEnd g r =>
    refine e rfl ▸ inS ?_
    unfold takeCloseStop afterCloseStop
    split
    · rename_i hf
      have hu : Unowned g s := hs.unowned (by rw [hf.1]; decide)
      split
      · split
        · exact seats_settleSegment g s hs hu
        · have b : Ebb s (countRecovery g s) := ebb_of_eq rfl rfl
          exact seats_settleSegment g _ (b.seats hs) (b.unowned hu rfl)
      · split
        · exact (ebb_closeStep g _ s).seats hs
        · exact (ebb_enterQuarantine g _ s hs hu).seats hs
    · exact hs
  case releaseStopResult g r =>
    refine e rfl ▸ inS ?_
    unfold takeReleaseStop
    split
    · rename_i hf
      exact seats_afterRelease g r s hs hf.2
    · exact hs
  case foreignCondition g k =>
    refine e rfl ▸ inS ?_
    unfold takeForeign
    split
    · rename_i hf
      refine (ebb_enterQuarantine g _ s hs (hs.unowned fun x => ?_)).seats hs
      unfold isForeign at hf
      rw [x] at hf
      cases k <;> simp at hf
    · exact hs
  case loss g k =>
    refine e rfl ▸ inS ?_
    unfold takeLoss
    split
    · exact (ebb_forOwner hs fun p h _ => ebb_loseSegment p g s hs h).seats hs
    · exact hs
  case validationCompletion =>
    refine e rfl ▸ inS ?_
    unfold completeValidation
    split
    · exact hs
    · split
      · exact (ebb_of_eq rfl rfl : Ebb s (failCommit _ _ s)).seats hs
      · exact (ebb_of_eq (by simp [swapBanks, latchCommitDone, evalAlert, finishCommand])
          (by simp [swapBanks, latchCommitDone, evalAlert, finishCommand]) : Ebb s (swapBanks _ s)).seats hs
  case reloadCompletion =>
    refine e rfl ▸ inS ?_
    have job (p : Port) (u : State) : Ebb u (completeReloadJob p u) := by
      unfold completeReloadJob
      split
      · exact ebb_finishCommand p _ _ u
      · exact .refl u
    unfold completeReload
    split
    · exact (((ebb_of_eq rfl rfl : Ebb s ((s.updBank s.shadowId fun _ => s.bank.get s.bc.active).updBc fun c =>
        { c with shadow := .editable, dirty := false })).trans (job .up0 _)).trans (job .up1 _)).seats hs
    · exact hs
  case upstreamSclEdge p k =>
    refine e rfl ▸ inS ?_
    unfold restartAbandon
    split
    · exact (ebb_updSession s p _ rfl rfl rfl).seats hs
    · exact hs
  case resetNLow =>
    refine e rfl ▸ ?_
    unfold takeResetLow
    split
    · exact low _ _
    · exact (ebb_of_eq rfl rfl : Ebb s (setPin .low s)).seats hs
    · exact (ebb_of_eq rfl rfl : Ebb s (setPin .low s)).seats hs
  case resetNHigh pins =>
    refine e rfl ▸ ?_
    unfold takeResetHigh endResetN endPowerOn
    split
    · exact (ebb_of_eq rfl rfl : Ebb s (setPin .high s)).seats hs
    · split
      · exact kept _ _
      · exact contents _ _ _
    · exact (ebb_of_eq rfl rfl : Ebb s (setPin .high s)).seats hs
    · exact contents _ _ _
  case powerOnReset => exact e rfl ▸ low _ _
  case powerOnResetEnd pins =>
    refine e rfl ▸ ?_
    unfold takePowerOnEnd endPowerOn
    split
    · exact contents _ _ _
    · exact (ebb_of_eq rfl rfl : Ebb s { s with phase := .powerOn true }).seats hs
    all_goals exact hs
  all_goals exact e rfl ▸ inS ((ebb_viaFrame _ _ _ s hs).seats hs)

end Sys2Proof.Machine
end

