-- ==== Sys2Proof/Laws/Segments.lean ====
section
/-!
SUPPORT. What a segment's entry into DISABLED and into QUARANTINED does, whole: the segment, its waiters, the records, the
latched flags and the long commands that wait on it.
-/

namespace Sys2Proof.Machine

/-- A segment without waiters refuses none. -/
theorem refuseWaiters_nil (g : SegId) (s : State) (h : (s.seg.get g).waiters = []) : refuseWaiters g s = s := by
  unfold refuseWaiters
  rw [h]
  simp only [List.foldl_nil]
  ext1 <;> simp
  rw [← h]
  exact PerSeg.set_get _ _

/-- After a latch each alert line has the level its conditions give (R154, R157). -/
theorem latchSegmentEvent_alert (s : State) (p : Port) :
    (latchSegmentEvent s).alert.get p = (latchSegmentEvent s).alertLevel p := by
  cases p <;> rfl

/-- A state with the report of a segment's state made from another is reported from both (R168). -/
theorem jobsReported_of (g : SegId) (x : SegState) (r : QuarantineReason) (s v : State)
    (h1 : v.job = s.job) (h2 : v.slot = s.slot) (h3 : ∀ h, h ≠ g → (v.seg.get h).state = (s.seg.get h).state) :
    JobsReported g x r s
      { v with
        slot := ⟨(v.jobAfter g x r .up0).1, (v.jobAfter g x r .up1).1⟩,
        job := ⟨(v.jobAfter g x r .up0).2, (v.jobAfter g x r .up1).2⟩ } := by
  intro p
  rw [jobAfter_congr g x r .up0 s v h1 h2 h3, jobAfter_congr g x r .up1 s v h1 h2 h3]
  cases p <;> rfl

/-- Refused ports rest on their sessions and lines, and the settings. -/
theorem refused_congr (l : List Port) (s t u : State)
    (h1 : u.session = t.session) (h2 : u.upi = t.upi) (h3 : u.settings = t.settings) (h : Refused l s t) :
    Refused l s u := by
  unfold Refused Discarding KeepsPort State.part at *
  rw [h1, h2, h3]
  exact h

/-- A segment enters DISABLED (R99, R109). -/
theorem enterDisabled_eq (g : SegId) (s : State) (hw : s.waitersHeld (s.seg.get g).waiters) :
    ∃ t, enterDisabled g s = t ∧
      t =
        { s with
          seg := s.seg.set g
            { s.seg.get g with
              state := .disabled, owner := none, waiters := [], reason := .none, disablePending := false, hold := none,
              act := none, ninthOwed := false },
          queue := s.refusedIn (s.seg.get g).waiters s.queue, flags := t.flags, alert := t.alert, upi := t.upi,
          session := t.session, slot := t.slot, job := t.job } ∧
      ((s.seg.get g).waiters = [] → t.flags = s.flags ∧ t.alert = s.alert) ∧ Refused (s.seg.get g).waiters s t ∧
      JobsReported g .disabled .none s t := by
  obtain ⟨W, e, h1, h2⟩ := refuseWaiters_eq g s hw
  have hn : (s.seg.get g).waiters = [] → W.flags = s.flags ∧ W.alert = s.alert := by
    intro h
    rw [← e, refuseWaiters_nil g s h]
    exact ⟨rfl, rfl⟩
  refine ⟨_, rfl, ?_⟩
  unfold enterDisabled
  rw [e, completeJobs_eq _ _ _ _ (by simp)]
  refine ⟨?_, hn, refused_congr _ _ W _ rfl rfl rfl h2,
    jobsReported_of g .disabled .none s _ (by rw [h1]; rfl) (by rw [h1]; rfl) (by intro h hh; rw [h1]; simp [hh])⟩
  clear hn h2 e
  generalize W.flags = wf at h1
  generalize W.alert = wa at h1
  generalize W.upi = wu at h1
  generalize W.session = ws at h1
  subst h1
  ext1 <;> simp

/-- A segment enters QUARANTINED, and with a disable pending goes on to DISABLED in the same event (R99, R108, R109). -/
theorem enterQuarantine_eq (g : SegId) (r : QuarantineReason) (s : State)
    (hw : s.waitersHeld (s.seg.get g).waiters) :
    let o := s.seg.get g
    let x : SegState := if o.disablePending then .disabled else .quarantined
    let why : QuarantineReason := if o.disablePending then .none else r
    ∃ t, enterQuarantine g r s = t ∧
      t =
        { s with
          seg := s.seg.set g
            { o with
              state := x, owner := none, reason := why, disablePending := false, waiters := [], hold := none, act := none,
              ninthOwed := false },
          segCounters := s.segCounters.set g
            { s.segCounters.get g with quarantines := satInc (s.segCounters.get g).quarantines },
          queue := s.refusedIn o.waiters s.queue, flags := t.flags, alert := t.alert, upi := t.upi,
          session := t.session, slot := t.slot, job := t.job } ∧
      (∀ p, (t.flags.get p).segmentEvent = true ∧ t.alert.get p = t.alertLevel p) ∧
      (o.waiters = [] → ∀ p, t.flags.get p = { s.flags.get p with segmentEvent := true }) ∧
      Refused o.waiters s t ∧ JobsReported g x why s t := by
  intro o x why
  generalize hA : (s.updSeg g fun c =>
    { c with
      state := .quarantined, owner := none, reason := r, hold := none, act := none, ninthOwed := false }) = A
  have hwait : (A.seg.get g).waiters = o.waiters := by simp [← hA, o]
  obtain ⟨W, e, h1, h2⟩ := refuseWaiters_eq g A (by rw [hwait, ← hA]; exact hw)
  have hWf : o.waiters = [] → W.flags = s.flags := by
    intro hn
    rw [← e, refuseWaiters_nil _ _ (by rw [hwait]; exact hn), ← hA]
    rfl
  rw [hwait] at h1 h2
  rw [refusedIn_congr o.waiters _ _ s (by intro p hp; rw [← hA]; exact ⟨rfl, rfl⟩)] at h1
  have hW : W =
      { s with
        seg := s.seg.set g
          { o with
            state := .quarantined, owner := none, reason := r, waiters := [], hold := none, act := none,
            ninthOwed := false },
        queue := s.refusedIn o.waiters s.queue, flags := W.flags, alert := W.alert, upi := W.upi,
        session := W.session } := by
    conv => lhs; rw [h1, ← hA]
    ext1 <;> simp [o, State.updSeg]
  have hR : Refused o.waiters s W := by rw [← hA] at h2; exact h2
  clear h1 h2
  refine ⟨_, rfl, ?_⟩
  unfold enterQuarantine
  rw [hA, e]
  have hd : ((latchSegmentEvent (countQuarantine g W)).seg.get g).disablePending = o.disablePending := by
    show (W.seg.get g).disablePending = _
    rw [hW]
    simp
  dsimp only
  rw [hd]
  have hL : latchSegmentEvent (countQuarantine g W) =
      { W with
        segCounters := s.segCounters.set g
          { s.segCounters.get g with quarantines := satInc (s.segCounters.get g).quarantines },
        flags := (latchSegmentEvent (countQuarantine g W)).flags,
        alert := (latchSegmentEvent (countQuarantine g W)).alert } := by
    conv => lhs; unfold latchSegmentEvent countQuarantine
    rw [hW]
    rfl
  have hLf : o.waiters = [] →
      ∀ p, (latchSegmentEvent (countQuarantine g W)).flags.get p = { s.flags.get p with segmentEvent := true } := by
    intro hn p
    have := hWf hn
    cases p <;> simp [latchSegmentEvent, countQuarantine, evalAlerts, evalAlert, this]
  have hLs : ∀ p, ((latchSegmentEvent (countQuarantine g W)).flags.get p).segmentEvent = true := by
    intro p
    cases p <;> rfl
  have hLa := latchSegmentEvent_alert (countQuarantine g W)
  generalize latchSegmentEvent (countQuarantine g W) = L at *
  have seg_eq : L.seg = s.seg.set g
      { o with
        state := .quarantined, owner := none, reason := r, waiters := [], hold := none, act := none,
        ninthOwed := false } := by rw [hL, hW]
  have lines : L.session = W.session ∧ L.upi = W.upi ∧ L.settings = W.settings := by rw [hL]; exact ⟨rfl, rfl, rfl⟩
  have jobs : L.job = s.job ∧ L.slot = s.slot := by rw [hL, hW]; exact ⟨rfl, rfl⟩
  clear e
  by_cases hdp : o.disablePending = true
  · have hx : x = .disabled := by simp [x, hdp]
    have hwhy : why = .none := by simp [why, hdp]
    rw [if_pos hdp]
    unfold enterDisabled
    rw [refuseWaiters_nil _ _ (by rw [seg_eq]; simp), completeJobs_eq _ _ _ _ (by simp), hx, hwhy]
    refine ⟨?_, fun p => ⟨hLs p, hLa p⟩, hLf,
      refused_congr _ _ W _ lines.1 lines.2.1 lines.2.2 hR,
      jobsReported_of g .disabled .none s _ jobs.1 jobs.2 (by intro h hh; simp [seg_eq, hh])⟩
    clear hR hLf hLs hLa lines jobs seg_eq hWf
    generalize W.flags = wf at *
    generalize W.alert = wa at *
    generalize W.upi = wu at *
    generalize W.session = ws at *
    generalize L.flags = lf at *
    generalize L.alert = la at *
    subst hW
    subst hL
    ext1 <;> simp
  · have hx : x = .quarantined := by simp [x, hdp]
    have hwhy : why = r := by simp [why, hdp]
    have hdf : o.disablePending = false := by simpa using hdp
    rw [if_neg hdp, completeJobs_eq _ _ _ _ (by rw [seg_eq]; simp), hx, hwhy]
    refine ⟨?_, fun p => ⟨hLs p, hLa p⟩, hLf, refused_congr _ _ W _ lines.1 lines.2.1 lines.2.2 hR,
      jobsReported_of g .quarantined r s _ jobs.1 jobs.2 (by intro h hh; simp [seg_eq, hh])⟩
    clear hR hLf hLs hLa lines jobs seg_eq hWf
    generalize W.flags = wf at *
    generalize W.alert = wa at *
    generalize W.upi = wu at *
    generalize W.session = ws at *
    generalize L.flags = lf at *
    generalize L.alert = la at *
    subst hW
    subst hL
    ext1 <;> simp [hdf]

end Sys2Proof.Machine
end

