-- ==== Sys2Proof/Tests/Slice0.lean ====
section
/-!
SUPPORT. Tests: the checks of WellFormed on ill-formed commands, the worked values of the spec, one step of some commands,
and for the hypotheses of each statement of Certificates/ a state that meets them.
-/

open Sys2Proof Sys2Proof.Machine

-- One test after another: each `decide +kernel` waits for the kernel to have checked all before it, and as tasks of their
-- own they would all wait at once, each in a thread with its own stack.
set_option Elab.async false

/-! ## Ill-formed commands are refused by their check -/

theorem test_headerWrite_illFormed : (Instr.headerWrite .up0 [0, 0, 0, 0, 0, 1, 0]).wellFormed = false := by decide

theorem test_entryWrite_illFormed : (Instr.entryWrite .up0 1 (List.replicate 17 0)).wellFormed = false := by decide

theorem test_windowWrite_illFormed :
    (Instr.windowWrite .up0 0 []).wellFormed = false ∧ (Instr.windowWrite .up0 0 [0, 0, 0]).wellFormed = false ∧
      (Instr.windowWrite .up0 0 (List.replicate 32 0)).wellFormed = false := by decide

theorem test_settingsWrite_illFormed : (Instr.settingsWrite .up0 (List.replicate 15 1)).wellFormed = false := by decide

theorem test_wellFormed :
    (Instr.headerWrite .up0 (List.replicate 8 0)).wellFormed = true ∧
      (Instr.windowWrite .up0 0 (List.replicate 28 0)).wellFormed = true := by decide

/-! ## Worked values of the spec -/

/-- The entry of the worked frame of 09_the_management_channel.md 9.9. -/
def workedEntry : Entry :=
  { valid := true, kind := .seven, matchAddr := 0x4C, target := none, segment := .seg1, access := ⟨.write, .none⟩,
    width := .w1, mode := .atStart, writeList := some ⟨1, 1⟩, readList := none, writeLimit := none, readLimit := none,
    creditLimit := some 4, creditRefill := 1, action := .refuse }

/-- Its image (R189, 9.9). -/
def workedImage : List Byte := [0x81, 0x00, 0x4C, 0x00, 0x00, 0x09, 0x01, 0x01, 0, 0, 0, 0, 0x04, 0x01, 0, 0]

theorem test_entryImage_worked : entryImage workedEntry = workedImage ∧ entryOfImage workedImage = some workedEntry := by
  decide

/-- The running CRC-8 of the worked frame (9.9, R187). -/
theorem test_crc8_worked :
    crc8 0xFF [0xB0] = 0x13 ∧ crc8 0xFF [0xB0, 0x22, 0x11] = 0x34 ∧
      crc8 0xFF ([0xB0, 0x22, 0x11, 0x01] ++ workedImage) = 0x4F := by decide +kernel

/-- The response of the worked frame (9.9, R165). -/
theorem test_slotFrame_worked : slotFrame 0xB1 ⟨.ok, []⟩ = [0x00, 0x00, 0x05] := by decide +kernel

/-- The check value of the CRC-16 over the digits 1 to 9 (R187). -/
theorem test_crc16_check :
    crc16 0xFFFF [0x31, 0x32, 0x33, 0x34, 0x35, 0x36, 0x37, 0x38, 0x39] = 0x29B1 := by decide +kernel

theorem test_entryImage_reservedBits :
    entryOfImage [0x85, 0x00, 0x4C, 0x00, 0x00, 0x09, 0x01, 0x01, 0, 0, 0, 0, 0x04, 0x01, 0, 0] = none ∧
      entryOfImage [0x81, 0x00, 0x80, 0x00, 0x00, 0x09, 0x01, 0x01, 0, 0, 0, 0, 0x04, 0x01, 0, 0] = none ∧
      entryOfImage [0x81, 0x00, 0x4C, 0x00, 0x00, 0x09, 0x01, 0x11, 0, 0, 0, 0, 0x04, 0x01, 0, 0] = none := by decide

theorem test_decode_none : decodeTableWord 8 0x01 = none := rfl

/-! ## States for the tests -/

/-- An entry for 7-bit address 0x50 with every check of its own. -/
def tEntry : Entry :=
  { valid := true, kind := .seven, matchAddr := 0x50, target := none, segment := .seg1, access := ⟨.readWrite, .none⟩,
    width := .w1, mode := .everyByte, writeList := some ⟨0, 1⟩, readList := some ⟨0, 1⟩, writeLimit := some 2,
    readLimit := some 2, creditLimit := some 4, creditRefill := 1, action := .refuse }

/-- A bank with that entry at index 0 and a window 0x10 to 0x1F at index 0. -/
def tBank (e : Entry) : Bank :=
  { resetBank false with
    entries := tableSet (resetBank false).entries 0 e, windows := tableSet (resetBank false).windows 0 ⟨0x10, 0x1F⟩ }

/-- The state after reset with that bank on both sides and UP0 the session holder. -/
def tBase (e : Entry) : State :=
  { State.reset with bank := .both (tBank e), accounts := .both (freshAccounts (tBank e)), holder := some .up0 }

/-- Segment 1 with an owner and an act. -/
def tSeg (t : SegState) (o : Option Port) (a : Option SegAct) : Segment :=
  { resetSegment .khz100 25 with state := t, owner := o, act := a, hold := none }

/-- A line whose clock is free, one whose clock is held, one that sends. -/
def tFree : Upi := { phase := .receive, hold := false, shift := none, ninth := none }

def tHeld : Upi := { tFree with hold := true }

def tSend : Upi := { tFree with phase := .send }

/-- A part decided by entry 0. -/
def tPart (d : Direction) : Part :=
  { noPart with
    decision := some (.entry 0), direction := d, address := 0x50, segment := some .seg1, target := 0x50 }

/-- A session that captured bank A. -/
def tSession (t : SessionState) (q : Part) (o : Option SegId) : Session :=
  { idleSession with
    state := t, bank := some .a, part := q, owned := o, stretch := some 10, wait := some 5, abandon := some 30 }

/-- UP0 with a session and a line, and segment 1. -/
def tState (e : Entry) (x : Session) (u : Upi) (c : Segment) : State :=
  { tBase e with
    session := ⟨x, idleSession⟩, upi := ⟨u, quietUpi⟩, seg := { State.reset.seg with seg1 := c },
    bc := { resetController with holders := ⟨1, 0⟩ } }

/-- A session in ADDRESS with nothing judged. -/
def tAddress (o : Option SegId) (c : Segment) : State := tState tEntry (tSession .address noPart o) tFree c

/-- A session in WRITE, past the sub-address byte 0x10. -/
def tWrite (length : Nat) (x : Option Half) (e : Entry) : State :=
  tState e
    { tSession .write { tPart .write with sub := [0x10], count := 1, length := length } (some .seg1) with
      pointer := x.map fun o => ⟨0, o⟩ }
    tFree (tSeg .owned (some .up0) none)

/-- A session in READ. -/
def tRead (length : Nat) (x : Option Half) : State :=
  tState tEntry
    { tSession .read { tPart .read with length := length } (some .seg1) with pointer := x.map fun o => ⟨0, o⟩ }
    tSend { tSeg .owned (some .up0) none with ninthOwed := true }

/-- A session whose act waits for the target. -/
def tAct (t : SessionState) (d : Direction) (a : SegAct) : State :=
  tState tEntry { tSession t (tPart d) (some .seg1) with pointer := some ⟨0, 0x20⟩ } tHeld
    (tSeg .owned (some .up0) (some a))

/-! ## One step -/

theorem test_start : ∃ t, exec (.start .up0) State.reset = .next t ∧ (t.session.get .up0).state = .address :=
  ⟨_, rfl, rfl⟩

theorem test_addressByte_forwards :
    ∃ t, exec (.addressByte .up0 0xA0) (tAddress none (tSeg .idle none none)) = .next t ∧
      (t.session.get .up0).state = .connect ∧ (t.seg.get .seg1).act = some (.address false 0xA0 []) ∧
      (tableGet (t.accounts.get .a) 0).bucket = some 3 :=
  ⟨_, rfl, by decide +kernel, by decide +kernel, by decide +kernel⟩

theorem test_addressByte_noEntry :
    ∃ t, exec (.addressByte .up0 0xA2) (tAddress none (tSeg .idle none none)) = .next t ∧
      (t.session.get .up0).state = .discard ∧ (t.upi.get .up0).ninth = some .nack ∧ t.queue.records.length = 1 ∧
      t.alert.get .up0 = .low :=
  ⟨_, rfl, by decide +kernel, by decide +kernel, by decide +kernel, by decide +kernel⟩

theorem test_identRead :
    ∃ t, exec (.identRead .up1) (tBase tEntry) = .next t ∧
      t.slot.get .up1 = ⟨.ok, [0x4B, 0x4A, 0x42, 0x00, 0x01, 0, 0]⟩ :=
  ⟨_, rfl, by decide +kernel⟩

theorem test_entryWrite :
    ∃ t, exec (.entryWrite .up0 1 workedImage) (tBase tEntry) = .next t ∧ t.slot.get .up0 = ⟨.ok, []⟩ ∧
      t.bc.dirty = true ∧ tableGet (t.bank.get .b).entries 1 = workedEntry :=
  ⟨_, rfl, by decide +kernel, by decide +kernel, by decide +kernel⟩

theorem test_sessionOpen_owned :
    ∃ t, exec (.sessionOpen .up1) (tBase tEntry) = .next t ∧ t.slot.get .up1 = ⟨.owned, [1]⟩ := ⟨_, rfl, by decide +kernel⟩

theorem test_segmentRelease_state :
    ∃ t, exec (.segmentRelease .up0 1) (tBase tEntry) = .next t ∧ t.slot.get .up0 = ⟨.state, []⟩ :=
  ⟨_, rfl, by decide +kernel⟩

/-- A refused read part has the filler byte ready, and after a byte nobody acknowledged the line is quiet (R44). -/
theorem test_discard_filler :
    ∃ t, exec (.addressByte .up0 0xA3) (tAddress none (tSeg .idle none none)) = .next t ∧
      (t.session.get .up0).state = .discard ∧ (t.upi.get .up0).shift = some 0xFF ∧ (t.upi.get .up0).phase = .send :=
  ⟨_, rfl, by decide +kernel, by decide +kernel, by decide +kernel⟩

/-! ## The hypotheses of the statements are met: queue, resets, invariants -/

theorem test_hyp_StepTakesFront :
    (State.reset.withCommand .refillTick).pending = .refillTick :: [] ∧ State.reset.pending = [] := ⟨rfl, rfl⟩

theorem test_hyp_ResetTakesNoEvent :
    ({ State.reset with phase := .powerOn true } : State).phase ≠ .inService ∧ resetCommand (.start .up1) = false := by
  decide

theorem test_hyp_ResetBegins :
    State.reset.phase = .inService ∧ ({ State.reset with phase := .resetN } : State).phase ≠ .inService := by decide

theorem test_hyp_ResetNEnds :
    (∃ s : State, s.phase = .resetN ∧ s.bc.locked = false) ∧ ∃ s : State, s.phase = .resetN ∧ s.bc.locked = true :=
  ⟨⟨{ State.reset with phase := .resetN }, rfl, rfl⟩,
    ⟨{ State.reset with phase := .resetN, bc := { resetController with locked := true, shadow := .locked } }, rfl, rfl⟩⟩

theorem test_hyp_PowerOnEnds :
    (∃ s : State, s.phase = .powerOn false ∧ s.resetPin = .high) ∧
      (∃ s : State, s.phase = .powerOn true ∧ s.resetPin = .low) ∧ ∃ s : State, s.phase = .powerOn false ∧ s.resetPin = .low :=
  ⟨⟨{ State.reset with phase := .powerOn false }, rfl, rfl⟩,
    ⟨{ State.reset with phase := .powerOn true, resetPin := .low }, rfl, rfl⟩,
    ⟨{ State.reset with phase := .powerOn false, resetPin := .low }, rfl, rfl⟩⟩

/-- A record in the queue of the next test. -/
def tRecord : Violation :=
  { sequence := 0xFFFF, port := .up0, reason := .noEntry, outcome := .refused, direction := .write, kind := .seven,
    address := 0x51, entry := none, segment := none, offset := none, position := 0, tag := 0 }

/-- The state of the invariant tests: a command waits, one record is queued across the wrap of the sequence number. -/
def tInvariant : State :=
  { State.reset with
    pending := [.start .up0], queue := ⟨[tRecord], 0, 0⟩, alert := .both .low,
    job := ⟨some .shadowReload, none⟩, slot := ⟨⟨.inProgress, []⟩, emptySlot⟩ }

theorem test_hyp_invariants_step : ∃ t, step tInvariant = .next t ∧ (t.session.get .up0).state = .address :=
  ⟨_, rfl, rfl⟩

theorem test_hyp_QueueAndSettingsStayInRange : QueueSafe tInvariant.queue ∧ SettingsSafe tInvariant.settings := by
  refine ⟨⟨by decide, ?_, by decide⟩, fun p => by cases p <;> decide, by decide, by decide, by decide⟩
  intro i v h
  match i with
  | 0 => cases h; decide
  | n + 1 => cases h

theorem test_hyp_AlertLinesFollow : AlertsSafe tInvariant := by intro p; cases p <;> decide

theorem test_hyp_HoldersAndShadowAgree : HoldersSafe tInvariant ∧ ShadowSafe tInvariant :=
  ⟨fun k => by cases k <;> rfl, fun _ => by decide⟩

theorem test_hyp_SlotsShowProgress : SlotsSafe tInvariant := by intro _ p; cases p <;> decide

theorem test_hyp_OwnersAndWaitersAgree : OwnersSafe tInvariant ∧ WaitersSafe tInvariant := by
  refine ⟨fun p g h => ?_, fun p g h => ?_, fun g => ?_, fun g h => ?_⟩
  · cases p <;> cases h
  · cases g <;> cases h
  · cases g <;> exact List.nodup_nil
  · cases g <;> exact absurd rfl h

/-- The active bank of the invariant state holds no valid entry, one with two entries that clash has a DUPLICATE. -/
theorem test_hyp_ActiveBankHasNoDuplicate :
    (∀ i, (tableGet (tInvariant.bank.get tInvariant.bc.active).entries i).valid = false) ∧
      duplicateIndex { tBank tEntry with entries := tableSet (tBank tEntry).entries 5 tEntry } = some 5 := by
  decide +kernel

theorem test_hyp_CreditStaysWithinLimit : CreditSafe (tBase tEntry) := by
  have h : ∀ i, (tableGet ((tBase tEntry).accounts.get (tBase tEntry).bc.active) i).bucket =
      freshBucket (tableGet ((tBase tEntry).bank.get (tBase tEntry).bc.active).entries i) := by decide +kernel
  refine ⟨fun i n hn => ?_, fun i hn hv => ?_⟩
  · rw [h i] at hn
    unfold freshBucket at hn
    split at hn
    · rename_i hv
      cases hl : (tableGet ((tBase tEntry).bank.get (tBase tEntry).bc.active).entries i).creditLimit with
      | none => rw [hl] at hn; cases hn
      | some l => rw [hl] at hn; cases hn; exact ⟨hv, l, rfl, Nat.le_refl _⟩
    · cases hn
  · rw [h i] at hn
    unfold freshBucket at hn
    rw [if_pos hv] at hn
    cases hl : (tableGet ((tBase tEntry).bank.get (tBase tEntry).bc.active).entries i).creditLimit with
    | none => rfl
    | some l => rw [hl] at hn; cases hn

theorem test_hyp_BanksStayWritable : BanksSafe (tBase tEntry) := by
  intro k
  have h : BankSafe (tBank tEntry) := by
    refine ⟨by decide, ?_, ?_⟩ <;> decide +kernel
  cases k <;> exact h

theorem test_hyp_LockdownFixesPolicy :
    ∃ s : State, s.bc.locked = true ∧ s.bc.shadow = .locked ∧ s.bc.commit = none ∧ s.phase = .inService :=
  ⟨{ State.reset with bc := { resetController with locked := true, shadow := .locked } }, rfl, rfl, rfl, rfl⟩

/-! ## Sessions and address bytes -/

theorem test_hyp_sessions :
    State.reset.phase = .inService ∧ (State.reset.session.get .up0).state = .idle ∧ State.reset.free .up0 = false ∧
      (tAddress none (tSeg .idle none none)).free .up0 = true ∧
      ((tAddress none (tSeg .idle none none)).session.get .up0).state ≠ .idle ∧
      (tWrite 0 none tEntry).free .up0 = true ∧ ((tWrite 0 none tEntry).session.get .up0).owned = some .seg1 := by
  decide

/-- A last capture of a draining shadow, released by a STOP. -/
theorem test_hyp_StopEndsSession_drain :
    ∃ s : State, s.phase = .inService ∧ s.free .up0 = true ∧ s.bc.shadow = .draining ∧
      (s.session.get .up0).bank = some s.shadowId ∧ s.bc.holders.get s.shadowId = 1 ∧
      ((s.session.get .up0).state = .mgmt → (s.part .up0).direction ≠ .write) :=
  ⟨{ tState tEntry (tSession .fill noPart none) tFree (tSeg .idle none none) with
      bc := { resetController with active := .b, shadow := .draining, holders := ⟨1, 0⟩ } },
    by decide, by decide, by decide, by decide, by decide, by decide⟩

theorem test_hyp_FirstAddressByteCaptures :
    ∃ s : State, s.phase = .inService ∧ (s.session.get .up0).state = .address ∧ (s.part .up0).held = none ∧
      (s.session.get .up0).bank = none :=
  ⟨tState tEntry { tSession .address noPart none with bank := none } tFree (tSeg .idle none none), by decide, by decide,
    by decide, by decide⟩

/-- The management address with management enabled and disabled, in either direction. -/
theorem test_hyp_ManagementAddressTaken :
    isTenBitFirst 0xB0 = false ∧ isTenBitFirst 0xB1 = false ∧ byteDirection 0xB0 = .write ∧ byteDirection 0xB1 = .read ∧
      addr7 (addressBits 0xB0) = 0x58#10 + (tBase tEntry).straps.maddr.setWidth 10 ∧
      addr7 (addressBits 0xB1) = 0x58#10 + (tBase tEntry).straps.maddr.setWidth 10 ∧
      (tBase tEntry).straps.mgmten.get .up0 = true ∧
      (latchStraps { Config.resetPins with mgmten := .tiedLow }).mgmten.get .up0 = false := by decide

/-- The bytes that reach no entry: a read of and a write to 0x00, 0x01, 0x07, 0x7C, 0x7F, and 0x51 and a 10-bit address
under DENY. -/
theorem test_hyp_AddressRefusedWithoutEntry :
    (∀ b ∈ [(0x00 : Byte), 0x01, 0x02, 0x0F, 0xF8, 0xFF, 0xA2],
      isTenBitFirst b = false ∧ addr7 (addressBits b) ≠ 0x58#10 + (tBase tEntry).straps.maddr.setWidth 10) ∧
      byteDirection 0x01 = .read ∧ (tBank tEntry).header.generalCallAction = .block ∧
      addr7 (addressBits 0x02) = 1 ∧ addr7 (addressBits 0x0F) = 7 ∧ addr7 (addressBits 0xF8) = 0x7C ∧
      addr7 (addressBits 0xFF) = 0x7F ∧ (tBank tEntry).header.defaultAction = .deny ∧
      (∀ i, (tableGet (tBank tEntry).entries i).claims .seven (addr7 (addressBits 0xA2)) = false) ∧
      ∀ i, (tableGet (tBank tEntry).entries i).claims .ten 0x050 = false := by decide +kernel

/-- The entry at 0x50 claims it, grants UP0 both directions and UP1 none. -/
theorem test_hyp_entry :
    addr7 (addressBits 0xA0) = 0x50 ∧ addr7 (addressBits 0xA1) = 0x50 ∧ byteDirection 0xA0 = .write ∧
      byteDirection 0xA1 = .read ∧ isTenBitFirst 0xA0 = false ∧ isTenBitFirst 0xA1 = false ∧
      (tableGet (tBank tEntry).entries 0).claims .seven 0x50 = true ∧
      ∀ j, (tableGet (tBank tEntry).entries j).claims .seven 0x50 = true → j = 0 := by decide +kernel

theorem test_hyp_AddressRefusedByEntry_portDenied :
    (tEntry.access.get .up1 = .none) ∧ tEntry.action = .refuse ∧
      ∀ j, (tableGet (tBank tEntry).entries j).claims .seven 0x50 = true →
        (tableGet (tBank tEntry).entries j).access.get .up1 = .none ∧ (0 : EntryIdx) ≤ j := by decide +kernel

theorem test_hyp_AddressRefusedByEntry_direction :
    (Access.write).allows (byteDirection 0xA1) = false ∧ Access.write ≠ .none := by decide

/-- No pointer; a pointer outside the window under AT_START; a pointer inside it. -/
theorem test_hyp_AddressRefusedByEntry_reads :
    (tAddress none (tSeg .idle none none)).pointerFor .up0 0 = none ∧
      (tWrite 0 (some 0x20) tEntry).pointerFor .up0 0 = some 0x20 ∧
      inList (tBank tEntry) ⟨0, 1⟩ 0x20 = false ∧ inList (tBank tEntry) ⟨0, 1⟩ 0x0F = false ∧
      inList (tBank tEntry) ⟨0, 1⟩ 0x10 = true ∧ inList (tBank tEntry) ⟨0, 1⟩ 0x1F = true ∧
      ({ tEntry with mode := .atStart } : Entry).readList = some ⟨0, 1⟩ := by decide +kernel

theorem test_hyp_AddressRefusedByEntry_noCredit :
    ∃ s : State, s.phase = .inService ∧ (s.session.get .up0).state = .address ∧
      (tableGet (s.accounts.get .a) 0).bucket = some 0 ∧ tEntry.creditLimit.isSome = true :=
  ⟨{ tAddress none (tSeg .idle none none) with
      accounts := .both (tableSet (freshAccounts (tBank tEntry)) 0 { zeroAccount with bucket := some 0 }) },
    by decide, by decide, by decide +kernel, by decide⟩

/-! ## Forwarded parts -/

/-- A 10-bit entry at 0x234 without a read list, UP0 with its write address half done, and UP0 with that address
remembered. -/
def tTen : Entry := { tEntry with kind := .ten, matchAddr := 0x234, readList := none }

def tHalf : State := tState tTen (tSession .address (heldAddress 0xF4) none) tFree (tSeg .idle none none)

def tAgain : State :=
  tState tTen { tSession .address noPart (some .seg1) with remembered := some ⟨0x234, .seg1⟩ } tFree
    (tSeg .owned (some .up0) none)

/-- An address completes at a 7-bit byte, at the second byte of a 10-bit write and at the byte of a remembered read. -/
theorem test_hyp_completes :
    (tAddress none (tSeg .idle none none)).completes .up0 0xA0 .seven .write 0x50 ∧
      tHalf.completes .up0 0x34 .ten .write (highBits 0xF4 ++ (0x34 : Byte)) ∧
      tAgain.completes .up0 0xF5 .ten .read 0x234 := by
  refine ⟨⟨rfl, rfl, .inl ⟨rfl, by decide, rfl, by decide, by decide, by decide⟩⟩,
    ⟨rfl, rfl, .inr (.inl ⟨rfl, rfl, 0xF4, rfl, rfl⟩)⟩,
    ⟨rfl, rfl, .inr (.inr ⟨rfl, rfl, by decide, rfl, by decide, ⟨0x234, .seg1⟩, rfl, by decide, rfl⟩)⟩⟩

/-- Entry 0 forwards a write of UP0 to segment 1. -/
theorem test_hyp_forwards_entry (o : Option SegId) (c : Segment) :
    (tAddress o c).forwards .up0 .seven .write 0x50 (.entry 0) .seg1 0x50 := by
  have a : (tableGet (tBank tEntry).entries 0).claims .seven 0x50 = true ∧
      (tableGet (tBank tEntry).entries 0).access.get .up0 ≠ .none ∧
      ((tableGet (tBank tEntry).entries 0).access.get .up0).allows .write = true ∧
      tableGet (tBank tEntry).entries 0 = tEntry ∧ (tableGet (freshAccounts (tBank tEntry)) 0).bucket = some 4 := by
    decide +kernel
  have h : ∀ j, (tableGet (tBank tEntry).entries j).claims .seven 0x50 = true →
      (tableGet (tBank tEntry).entries j).access.get .up0 ≠ .none → j = 0 := by decide +kernel
  exact .inr (.inr ⟨fun _ => by decide, 0, ⟨⟨a.1, a.2.1, h⟩, a.2.2.1, nofun, fun _ => ⟨3, a.2.2.2.2⟩⟩, rfl,
    (congrArg Entry.segment a.2.2.2.1).symm, (congrArg (fun e => e.target.getD e.matchAddr) a.2.2.2.1).symm⟩)

/-- The 10-bit entry forwards a write at its second byte, and a read of the remembered address. -/
theorem test_hyp_forwards_ten :
    tHalf.forwards .up0 .ten .write 0x234 (.entry 0) .seg1 0x234 ∧
      tAgain.forwards .up0 .ten .read 0x234 (.entry 0) .seg1 0x234 ∧
      (tAgain.session.get .up0).owned = some .seg1 := by
  have one : ∀ j, (tableGet (tBank tTen).entries j).claims .ten 0x234 = true →
      (tableGet (tBank tTen).entries j).access.get .up0 ≠ .none → j = 0 := by decide +kernel
  have credit : (tableGet (freshAccounts (tBank tTen)) 0).bucket = some 4 := by decide +kernel
  have here : (tableGet (tBank tTen).entries 0).claims .ten 0x234 = true ∧
      (tableGet (tBank tTen).entries 0) = tTen := by decide +kernel
  refine ⟨.inr (.inr ⟨nofun, 0, ⟨⟨here.1, ?_, one⟩, ?_, nofun, fun _ => ⟨3, credit⟩⟩, rfl, ?_, ?_⟩),
    .inr (.inr ⟨nofun, 0, ⟨⟨here.1, ?_, one⟩, ?_, fun _ l h => ?_, fun _ => ⟨3, credit⟩⟩, rfl, ?_, ?_⟩), rfl⟩
  case refine_7 =>
    have : (tableGet (tBank tTen).entries 0).readList = none := by rw [here.2]; rfl
    cases this.symm.trans h
  all_goals decide +kernel

/-- The general call and the default action forward. -/
theorem test_hyp_forwards_header :
    let k : Bank :=
      { resetBank true with header := { (resetBank true).header with generalCallAction := .forward } }
    let s : State := { tAddress none (tSeg .idle none none) with bank := .both k }
    s.forwards .up0 .seven .write 0 .generalCallForward .seg0 0 ∧
      s.forwards .up0 .seven .read 0x50 .defaultForward .seg0 0x50 ∧
      s.forwards .up0 .ten .write 0x234 .defaultForward .seg0 0x234 := by
  refine ⟨.inl ⟨rfl, rfl, rfl, by decide, rfl, by decide, rfl⟩,
    .inr (.inl ⟨fun _ => by decide, ?_, by decide, rfl, by decide, rfl⟩),
    .inr (.inl ⟨nofun, ?_, by decide, rfl, by decide, rfl⟩)⟩
  · show ∀ i, (tableGet (resetBank true).entries i).claims .seven 0x50 = false
    decide +kernel
  · show ∀ i, (tableGet (resetBank true).entries i).claims .ten 0x234 = false
    decide +kernel

/-- The segment a forwarded part meets: its own, IDLE, OWNED by the other port, being released, CLOSING, QUARANTINED,
DISABLED. -/
theorem test_hyp_forward_segments :
    (∀ t ∈ [SegState.idle, .owned, .closing, .quarantined, .disabled],
        (tAddress none (tSeg t (some .up1) none)).phase = .inService ∧
          ((tAddress none (tSeg t (some .up1) none)).session.get .up0).state = .address ∧
          ((tAddress none (tSeg t (some .up1) none)).part .up0).held = none ∧
          ((tAddress none (tSeg t (some .up1) none)).session.get .up0).owned ≠ some .seg1 ∧
          ((tAddress none (tSeg t (some .up1) none)).seg.get .seg1).state = t ∧
          Port.up0 ∉ ((tAddress none (tSeg t (some .up1) none)).seg.get .seg1).seekers) ∧
      (∀ t ∈ [SegState.owned, .closing], (tAddress none (tSeg t (some .up1) none)).waitsFor .up0 .seg1) ∧
      ((tAddress none (tSeg .owned none (some .releaseStop))).seg.get .seg1).owner = none ∧
      ((tAddress (some .seg1) (tSeg .owned (some .up0) none)).session.get .up0).owned = some .seg1 ∧
      ((tBase tEntry).limits .up0).wait ≠ 0 ∧
      ({ tBase tEntry with
          settings := { defaultSettings with
            port := ⟨{ defaultSettings.port.up0 with wait := 0 }, defaultSettings.port.up1⟩ } } : State).limits .up0 =
        { defaultSettings.port.up0 with wait := 0 } := by decide

/-- A segment refuses a request, out of use or with a wait limit of 0. -/
theorem test_hyp_refusesRequest :
    (∀ t ∈ [SegState.quarantined, .disabled],
        (tAddress none (tSeg t none none)).refusesRequest .up0 .seg1 .segmentUnavailable) ∧
      ∀ t ∈ [SegState.owned, .closing],
        ({ tAddress none (tSeg t (some .up1) none) with
            settings := { defaultSettings with
              port := ⟨{ defaultSettings.port.up0 with wait := 0 }, defaultSettings.port.up1⟩ } } :
          State).refusesRequest .up0 .seg1 .grantTimeout := by
  unfold State.refusesRequest
  decide

/-- A read of UP0 from an entry under LOG_ONLY with an access, a pointer and a bucket. -/
def tLogged (a : Access) (x : Option Half) (n : Nat) : State :=
  let e : Entry := { tEntry with access := ⟨a, .none⟩, mode := .atStart, action := .logOnly }
  { tState e { tSession .address noPart none with pointer := x.map fun o => ⟨0, o⟩ } tFree (tSeg .idle none none) with
    accounts := .both (tableSet (freshAccounts (tBank e)) 0 { zeroAccount with bucket := some n }) }

/-- What LOG_ONLY is found against: nothing granted, one violation of each kind, three at once. -/
theorem test_hyp_LogOnlyAddressPasses :
    (tLogged .none (some 0x10) 4).addressFaults .up0 .read 0 = [(.portDenied, none)] ∧
      (tLogged .write (some 0x10) 4).addressFaults .up0 .read 0 = [(.direction, none)] ∧
      (tLogged .read none 4).addressFaults .up0 .read 0 = [(.noPointer, none)] ∧
      (tLogged .read (some 0x20) 1).addressFaults .up0 .read 0 = [(.readWindow, some 0x20)] ∧
      (tLogged .read (some 0x1F) 0).addressFaults .up0 .read 0 = [(.noCredit, none)] ∧
      (tLogged .write none 0).addressFaults .up0 .read 0 =
        [(.direction, none), (.noPointer, none), (.noCredit, none)] := by decide +kernel

theorem test_hyp_logged : (tLogged .write none 0).logged .up0 .seven .read 0x50 0 ∧
    (tLogged .none none 4).logged .up0 .seven .read 0x50 0 ∧
    (tLogged .write none 0).completes .up0 0xA1 .seven .read 0x50 := by
  refine ⟨⟨fun _ => by decide, .inl ⟨?_, ?_, ?_⟩, ?_, ?_⟩, ⟨fun _ => by decide, .inr ⟨?_, ?_⟩, ?_, ?_⟩,
    ⟨rfl, rfl, .inl ⟨rfl, by decide, rfl, by decide, by decide, by decide⟩⟩⟩
  all_goals decide +kernel

/-- First bytes of 10-bit addresses: 0xF4 finds the entry 0x234, 0xF0 finds none, 0xF5 reads a remembered address or not. -/
theorem test_hyp_TenBitFirstByteAnswered :
    let e : Entry := { tEntry with kind := .ten, matchAddr := 0x234 }
    isTenBitFirst 0xF4 = true ∧ isTenBitFirst 0xF0 = true ∧ isTenBitFirst 0xF5 = true ∧ byteDirection 0xF4 = .write ∧
      byteDirection 0xF5 = .read ∧ addrHigh (tableGet (tBank e).entries 0).matchAddr = highBits 0xF4 ∧
      (∀ i, (tableGet (tBank e).entries i).kind = .ten →
        addrHigh (tableGet (tBank e).entries i).matchAddr ≠ highBits 0xF0) ∧
      (tBank e).header.defaultAction = .deny ∧
      ((tAddress none (tSeg .idle none none)).session.get .up0).remembered = none ∧
      ({ tSession .address noPart none with stretch := none } : Session).stretch = none := by decide +kernel

theorem test_hyp_TenBitAddressJudged :
    tHalf.phase = .inService ∧ (tHalf.session.get .up0).state = .address ∧ tHalf.part .up0 = heldAddress 0xF4 ∧
      highBits 0xF4 ++ (0x35 : Byte) = (0x235 : Addr) ∧ (tHalf.session.get .up0).owned = none ∧
      (∀ i, (tableGet (tHalf.judged .up0).entries i).claims .ten 0x235 = false) ∧
      (tHalf.judged .up0).header.defaultAction = .deny ∧ (resetBank true).header.defaultAction = .forward := by
  decide +kernel

/-! ## Data bytes -/

theorem test_hyp_writing : ∀ x ∈ [none, some (0x10 : Half)], ∀ n ∈ [0, 1, 2],
    (tWrite n x tEntry).writing .up0 .seg1 ∧ (tWrite n x tEntry).pastSubAddress .up0 0 := by
  intro x hx n hn
  refine ⟨⟨rfl, rfl, rfl, rfl, rfl⟩, rfl, ?_, ?_⟩
  · show ([0x10] : List Byte).length = (tableGet (tBank tEntry).entries 0).width.bytes
    decide +kernel
  · show (tableGet (tBank tEntry).entries 0).width.bytes ≤ (1 : Byte).toNat
    decide +kernel

/-- A byte that passes the checks of its entry: no pointer, and two data bytes still to come. -/
theorem test_hyp_WriteByteRelayed :
    (tWrite 0 none tEntry).writeWindowPasses .up0 0 ∧ (tWrite 1 none tEntry).writeLengthPasses .up0 0 := by
  refine ⟨fun _ l o _ h => ?_, fun l h => ?_⟩
  · have : (tWrite 0 none tEntry).pointerFor .up0 0 = none := by decide
    rw [this] at h
    cases h
  · have : (tableGet ((tWrite 1 none tEntry).judged .up0).entries 0).writeLimit = some 2 := by decide +kernel
    rw [this] at h
    cases h
    decide

/-- A byte outside the window, one beyond the length limit, and one that is both, under both actions. -/
theorem test_hyp_WriteByteViolation : ∀ e ∈ [tEntry, { tEntry with action := .logOnly }],
    (tWrite 0 (some 0x20) e).pointerFor .up0 0 = some 0x20 ∧
      inList ((tWrite 0 (some 0x20) e).judged .up0) ⟨0, 1⟩ 0x20 = false ∧
      tableGet ((tWrite 0 (some 0x20) e).judged .up0).entries 0 = e ∧ e.mode = .everyByte ∧
      e.writeList = some ⟨0, 1⟩ ∧ e.writeLimit = some 2 ∧ ((tWrite 2 none e).part .up0).length = (2 : Byte).toNat ∧
      (tWrite 2 none e).pointerFor .up0 0 = none ∧ ((tWrite 0 (some 0x20) e).part .up0).length ≠ (2 : Byte).toNat ∧
      (tWrite 2 (some 0x20) e).pointerFor .up0 0 = some 0x20 ∧
      ((tWrite 2 (some 0x20) e).part .up0).length = (2 : Byte).toNat := by decide +kernel

/-- Sub-address bytes of width 1 and width 2 under both actions: 0x10 lies in the window, 0x20 outside it. -/
theorem test_hyp_SubAddressBytes : ∀ a ∈ [Action.refuse, .logOnly],
    let e : Entry := { tEntry with mode := .atStart, action := a }
    let e2 : Entry := { e with width := .w2 }
    let s (e : Entry) (l : List Byte) (h : Option Byte) : State :=
      tState e
        (tSession .write { tPart .write with sub := l, count := BitVec.ofNat 8 l.length, held := h } (some .seg1))
        tFree (tSeg .owned (some .up0) none)
    (tableGet ((s e [] none).judged .up0).entries 0 = e ∧ ((s e [] none).part .up0).count = 0) ∧
      (tableGet ((s e2 [] none).judged .up0).entries 0).width = .w2 ∧
      (((s e2 [0x00] (some 0x00)).part .up0).count = 1 ∧ ((s e2 [0x00] (some 0x00)).part .up0).held = some 0x00) ∧
      inList ((s e [] none).judged .up0) ⟨0, 1⟩ (0#8 ++ 0x10#8) = true ∧
      inList ((s e [] none).judged .up0) ⟨0, 1⟩ (0#8 ++ 0x20#8) = false := by decide +kernel

/-- A port in MGMT with its parser in a state, and with a command in progress or none. -/
def tMgmt (r : Parser) (j : Option LongCommand) : State :=
  { tState tEntry (tSession .mgmt { noPart with decision := some .management } none) tFree (tSeg .idle none none) with
    parser := ⟨r, freshParser⟩, job := ⟨j, none⟩ }

theorem test_hyp_DiscardAndManagementBytes :
    (∀ t ∈ [ParserState.awaitCommand, .awaitLength, .awaitArguments, .awaitCrc, .complete, .overlength, .refused],
        ∀ j ∈ [none, some LongCommand.commit],
          (tMgmt { freshParser with state := t, length := 1 } j).phase = .inService ∧
            ((tMgmt { freshParser with state := t, length := 1 } j).part .up0).direction = .write ∧
            ((tMgmt { freshParser with state := t, length := 1 } j).upi.get .up0).hold = false ∧
            ((tMgmt { freshParser with state := t, length := 1 } j).session.get .up0).state = .mgmt ∧
            ((tMgmt { freshParser with state := t, length := 1 } j).parser.get .up0).state = t) ∧
      ((tState tEntry (tSession .discard noPart none) tFree (tSeg .idle none none)).session.get .up0).state = .discard ∧
      (0 : Byte).toNat + 1 = (1 : Byte).toNat ∧ (33 : Byte).toNat = 33 ∧ (32 : Byte).toNat = 32 := by decide

/-- A byte of a management write raises both counts of its part (R26, R71). -/
theorem test_management_byte_counts :
    ∃ t, exec (.dataByte .up0 0x03) (tMgmt freshParser none) = .next t ∧ (t.part .up0).count = 1 ∧
      (t.part .up0).length = 1 ∧ (t.parser.get .up0).state = .awaitLength :=
  ⟨_, rfl, by decide +kernel, by decide +kernel, by decide +kernel⟩

/-- An address byte answered by the target: a write, a read, one with a byte to come. -/
theorem test_hyp_TargetAnswersAddress : ∀ d ∈ [Direction.write, .read], ∀ l ∈ [[], [(0x34 : Byte)]],
    (tAct .connect d (.address false 0xA0 l)).phase = .inService ∧
      ((tAct .connect d (.address false 0xA0 l)).session.get .up0).state = .connect ∧
      ((tAct .connect d (.address false 0xA0 l)).seg.get .seg1).owner = some .up0 ∧
      ((tAct .connect d (.address false 0xA0 l)).session.get .up0).owned = some .seg1 ∧
      ((tAct .connect d (.address false 0xA0 l)).seg.get .seg1).act = some (.address false 0xA0 l) ∧
      ((tAct .connect d (.address false 0xA0 l)).upi.get .up0).hold = true ∧
      ((tAct .connect d (.address false 0xA0 l)).part .up0).direction = d ∧
      ((tAct .connect d (.address false 0xA0 l)).part .up0).decision = some (.entry 0) := by decide

/-- Byte 0 of a read outside the window 0x10 to 0x1F; a read whose pointer and length pass. -/
theorem test_hyp_reads :
    ((tAct .connect .read (.address false 0xA1 [])).pointerFor .up0 0 = some 0x20 ∧
      inList ((tAct .connect .read (.address false 0xA1 [])).judged .up0) ⟨0, 1⟩ 0x20 = false ∧
      tableGet ((tAct .connect .read (.address false 0xA1 [])).judged .up0).entries 0 = tEntry) ∧
      ((tRead 1 (some 0x1F)).pointerFor .up0 0 = some 0x1F ∧
        inList ((tRead 1 (some 0x1F)).judged .up0) ⟨0, 1⟩ 0x1F = true ∧
        ((tRead 1 (some 0x1F)).part .up0).length ≠ (2 : Byte).toNat) := by decide +kernel

/-- Byte 0 of a read that LOG_ONLY lets pass outside the window, and a request that breaks the window and the limit. -/
theorem test_hyp_reads_logOnly :
    let e : Entry := { tEntry with action := .logOnly }
    let s (t : SessionState) (n : Nat) (u : Upi) (a : Option SegAct) : State :=
      tState e
        { tSession t { tPart .read with length := n } (some .seg1) with pointer := some ⟨0, 0x20⟩ } u
        (tSeg .owned (some .up0) a)
    tableGet ((s .read 2 tSend none).judged .up0).entries 0 = e ∧
      inList ((s .read 2 tSend none).judged .up0) ⟨0, 1⟩ 0x20 = false ∧
      (s .read 2 tSend none).pointerFor .up0 0 = some 0x20 ∧
      ((s .read 2 tSend none).part .up0).length = (2 : Byte).toNat ∧
      (s .connect 0 tHeld (some (.address false 0xA1 []))).pointerFor .up0 0 = some 0x20 ∧
      ((s .connect 0 tHeld (some (.address false 0xA1 []))).part .up0).length ≠ (2 : Byte).toNat := by decide +kernel

theorem test_hyp_readPasses :
    (tRead 1 (some 0x1F)).readWindowPasses .up0 0 ∧ (tRead 1 (some 0x1F)).readLengthPasses .up0 0 := by
  have a : (tableGet ((tRead 1 (some 0x1F)).judged .up0).entries 0).readList = some ⟨0, 1⟩ ∧
      (tableGet ((tRead 1 (some 0x1F)).judged .up0).entries 0).readLimit = some 2 ∧
      inList ((tRead 1 (some 0x1F)).judged .up0) ⟨0, 1⟩ 0x1F = true ∧
      (tRead 1 (some 0x1F)).pointerFor .up0 0 = some 0x1F := by decide +kernel
  refine ⟨fun _ l o h1 h2 => ?_, fun l h => ?_⟩
  · rw [a.1] at h1
    rw [a.2.2.2] at h2
    cases h1
    cases h2
    exact a.2.2.1
  · rw [a.2.1] at h
    cases h
    decide

theorem test_hyp_TargetAnswersWriteByte : ∀ l ∈ [[], [(0x34 : Byte)]],
    (tAct .write .write (.send 0x10 l)).phase = .inService ∧
      ((tAct .write .write (.send 0x10 l)).seg.get .seg1).act = some (.send 0x10 l) ∧
      ((tAct .write .write (.send 0x10 l)).upi.get .up0).hold = true ∧
      (tAct .write .write (.send 0x10 l)).pointerFor .up0 0 = some 0x20 ∧
      (tableGet ((tAct .write .write (.send 0x10 l)).judged .up0).entries 0).width = .w1 ∧
      ((tAct .write .write (.send 0x10 l)).part .up0).length = 0 := by decide +kernel

theorem test_hyp_ReadByteRequested :
    (tRead 2 (some 0x20)).phase = .inService ∧ ((tRead 2 (some 0x20)).session.get .up0).state = .read ∧
      ((tRead 2 (some 0x20)).part .up0).direction = .read ∧ ((tRead 2 (some 0x20)).upi.get .up0).hold = false ∧
      ((tRead 2 (some 0x20)).upi.get .up0).phase = .send ∧ ((tRead 2 (some 0x20)).session.get .up0).owned = some .seg1 ∧
      ((tRead 2 (some 0x20)).seg.get .seg1).ninthOwed = true ∧
      tableGet ((tRead 2 (some 0x20)).judged .up0).entries 0 = tEntry ∧
      inList ((tRead 2 (some 0x20)).judged .up0) ⟨0, 1⟩ 0x20 = false ∧
      ((tRead 2 (some 0x10)).part .up0).length = (2 : Byte).toNat := by decide +kernel

theorem test_hyp_ReadsEndAndFill : ∀ t ∈ [SessionState.read, .fill, .discard, .mgmt], ∀ l ∈ [[], [(0x05 : Byte)]],
    ∀ f ∈ [LinePhase.send, .ended], ∃ s : State, s.phase = .inService ∧ (s.part .up0).direction = .read ∧ (s.upi.get .up0).hold = false ∧
      (s.upi.get .up0).phase = f ∧ (s.session.get .up0).state = t ∧ s.readback.get .up0 = l := by
  intro t _ l _ f _
  exact ⟨{ tState tEntry (tSession t (tPart .read) (some .seg1)) { tSend with phase := f } (tSeg .owned (some .up0) none) with
    readback := ⟨l, []⟩ }, rfl, rfl, rfl, rfl, rfl, rfl⟩

theorem test_hyp_ReadByteArrives : ∀ cut ∈ [false, true],
    (tAct .read .read (.receive cut)).phase = .inService ∧
      ((tAct .read .read (.receive cut)).seg.get .seg1).owner = some .up0 ∧
      ((tAct .read .read (.receive cut)).session.get .up0).owned = some .seg1 ∧
      ((tAct .read .read (.receive cut)).seg.get .seg1).act = some (.receive cut) ∧
      ((tAct .read .read (.receive cut)).upi.get .up0).hold = true ∧
      (tAct .read .read (.receive cut)).pointerFor .up0 0 = some 0x20 := by decide

/-! ## Timers, segments and banks -/

/-- A held part in GRANT_WAIT, CONNECT, WRITE and READ, its timers running. -/
theorem test_hyp_HeldPartTimesOut : ∀ t ∈ [SessionState.grantWait, .connect, .write, .read],
    ∃ s : State, s.phase = .inService ∧ (s.upi.get .up0).hold = true ∧ (s.session.get .up0).state = t ∧
      (s.session.get .up0).wait.isSome = true ∧ (s.session.get .up0).stretch.isSome = true ∧
      (s.part .up0).segment = some .seg1 ∧ (t = .grantWait → (s.session.get .up0).owned = none) := by
  intro t _
  exact ⟨tState tEntry (tSession t (tPart .write) (if t = .grantWait then none else some .seg1)) tHeld
    (tSeg .owned (some .up1) none), rfl, rfl, rfl, rfl, rfl, rfl, fun h => if_pos h⟩

theorem test_hyp_AbandonTimerEndsSession :
    (tWrite 0 none tEntry).phase = .inService ∧ (tWrite 0 none tEntry).free .up0 = true ∧
      ((tWrite 0 none tEntry).session.get .up0).abandon.isSome = true ∧
      ((tWrite 0 none tEntry).part .up0).decision.isSome = true ∧
      ((tWrite 0 none tEntry).session.get .up0).state = .write ∧ State.reset.free .up0 = false := by decide

theorem test_hyp_RefillAndIdleTimers :
    State.reset.refill.isSome = true ∧ State.reset.idle = none ∧
      ({ State.reset with refill := none, idle := some 10 } : State).refill = none ∧
      ({ State.reset with idle := some 10 } : State).idle.isSome = true ∧
      (tableGet (freshAccounts (tBank tEntry)) 0).bucket = some 4 ∧ tEntry.creditLimit = some 4 := by decide +kernel

/-- A segment in the close procedure, at a step and after some pulses. -/
def tClosing (t : CloseStep) (n : Nat) (w : List Port) : State :=
  { State.reset with
    seg := { State.reset.seg with seg1 := { resetSegment .khz100 25 with step := t, pulses := n, waiters := w } } }

theorem test_hyp_CloseProcedureSteps : ∀ t ∈ [CloseStep.one, .two, .three], ∀ n ∈ [0, 7, 8],
    (tClosing t n []).phase = .inService ∧ ((tClosing t n []).seg.get .seg1).state = .closing ∧
      ((tClosing t n []).seg.get .seg1).step = t ∧ ((tClosing t n []).seg.get .seg1).pulses = n := by decide

/-- Both ports wait in GRANT_WAIT for segment 1, each held, and UP0 has a long command. -/
def tWaiting (c : Segment) (j : Option LongCommand) : State :=
  { tState tEntry (tSession .grantWait (tPart .write) none) tHeld { c with waiters := [.up1, .up0] } with
    session := ⟨tSession .grantWait (tPart .write) none, tSession .grantWait (tPart .write) none⟩,
    upi := ⟨tHeld, tHeld⟩, job := ⟨j, none⟩ }

/-- Segment 1 is being released, with waiters and what waits for its STOP; both ports' wait limits are one value. -/
def tReleasing (w : List Port) (l : List Deferred) (limit : Byte) : State :=
  { tWaiting (tSeg .owned none (some .releaseStop)) none with
    seg := { State.reset.seg with seg1 := { tSeg .owned none (some .releaseStop) with waiters := w, deferred := l } },
    settings := { defaultSettings with
      port := ⟨{ defaultSettings.port.up0 with wait := limit }, { defaultSettings.port.up1 with wait := limit }⟩ } }

/-- CLOCK_HELD, DATA_HELD at the ninth pulse, FOREIGN in IDLE and in CLOSING, with no waiter or two that are held, a
disable pending or not, and ABORT_ALL that waits for this segment and another. -/
theorem test_hyp_SegmentQuarantined :
    (((tClosing .one 0 []).seg.get .seg1).hold.isSome = true ∧ 9 ≤ ((tClosing .two 8 []).seg.get .seg1).pulses + 1 ∧
      9 ≤ ((tClosing .three 9 []).seg.get .seg1).pulses) ∧
      (tSeg .idle none none).state = .idle ∧ (tSeg .idle none none).waiters = [] ∧
      ∀ b ∈ [false, true],
        let s := tWaiting { resetSegment .khz100 25 with disablePending := b } (some (.abortAll 2 [.seg1, .seg2]))
        s.phase = .inService ∧ (s.seg.get .seg1).state = .closing ∧ (s.seg.get .seg1).hold.isSome = true ∧
          (s.seg.get .seg1).waiters = [.up1, .up0] ∧ s.waitersHeld [.up1, .up0] ∧
          s.jobAfter .seg1 .quarantined .clockHeld .up0 = (emptySlot, some (.abortAll 2 [.seg2])) := by
  unfold State.waitersHeld
  decide

/-- A STOP forms at the end of a close and at the end of a release, with no waiter or some, a disable pending or none,
nothing waiting for the STOP, a disable, or a request of a port that is in no list; and it fails. -/
theorem test_hyp_SegmentSettles :
    (((tClosing .three 1 [.up0]).seg.get .seg1).state = .closing ∧ ((tClosing .three 1 [.up0]).seg.get .seg1).step = .three ∧
      ((tClosing .three 1 [.up0]).seg.get .seg1).waiters = .up0 :: [] ∧
      ((tClosing .three 1 []).seg.get .seg1).disablePending = false) ∧
      (tSeg .owned none (some .releaseStop)).act = some .releaseStop ∧
      (tSeg .owned none (some .releaseStop)).owner = none ∧
      let s := tWaiting (tSeg .owned none (some .releaseStop)) (some (.segmentDisable .seg1))
      (s.seg.get .seg1).disablePending = false ∧ (s.seg.get .seg1).waiters = .up1 :: [.up0] ∧
        (s.upi.get .up1).hold = true ∧ s.job.get .up0 = some (.segmentDisable .seg1) ∧ s.waitersHeld [.up1, .up0] ∧
        ∀ w ∈ [[], [Port.up1]],
          let u := tReleasing w [.request .up0] 0
          (u.seg.get .seg1).act = some .releaseStop ∧ (u.seg.get .seg1).owner = none ∧
            (u.seg.get .seg1).deferred = [.request .up0] ∧ (u.part .up0).segment = some .seg1 ∧
            Port.up0 ∉ (u.seg.get .seg1).waiters ∧ (u.upi.get .up0).hold = true := by
  unfold State.waitersHeld
  decide

/-- A request that came while the STOP of a release was driven, with a wait limit of 0: granted when the STOP formed,
refused when it failed or when another port was waiting. -/
theorem test_lateRequest :
    (∃ t, exec (.releaseStopResult .seg1 .formed) (tReleasing [] [.request .up0] 0) = .next t ∧
      (t.seg.get .seg1).owner = some .up0 ∧ (t.session.get .up0).state = .connect) ∧
      (∃ t, exec (.releaseStopResult .seg1 .sclLow) (tReleasing [] [.request .up0] 0) = .next t ∧
        (t.part .up0).decision = some (.refused .grantTimeout) ∧ (t.seg.get .seg1).state = .closing) ∧
      (∃ t, exec (.releaseStopResult .seg1 .formed) (tReleasing [.up1] [.request .up0] 0) = .next t ∧
        (t.seg.get .seg1).owner = some .up1 ∧ (t.part .up0).decision = some (.refused .grantTimeout)) ∧
      ∃ t, exec (.releaseStopResult .seg1 .formed) (tReleasing [] [.disable, .request .up0] 5) = .next t ∧
        (t.seg.get .seg1).state = .disabled ∧ (t.part .up0).decision = some (.refused .segmentUnavailable) :=
  ⟨⟨_, rfl, by decide +kernel, by decide +kernel⟩, ⟨_, rfl, by decide +kernel, by decide +kernel⟩,
    ⟨_, rfl, by decide +kernel, by decide +kernel⟩, ⟨_, rfl, by decide +kernel, by decide +kernel⟩⟩

/-- A disable that came while the STOP of a release was driven: the segment enters DISABLED when it formed, and is CLOSING
with the disable pending when it failed or when a waiter was granted it. -/
theorem test_lateDisable :
    let s : State :=
      { tBase tEntry with
        seg := { State.reset.seg with seg1 := { tSeg .owned none (some .releaseStop) with deferred := [.disable] } },
        job := ⟨some (.segmentDisable .seg1), none⟩ }
    (∃ t, exec (.releaseStopResult .seg1 .formed) s = .next t ∧ (t.seg.get .seg1).state = .disabled ∧
      t.slot.get .up0 = ⟨.ok, []⟩ ∧ t.job.get .up0 = none) ∧
      (∃ t, exec (.releaseStopResult .seg1 .sclLow) s = .next t ∧ (t.seg.get .seg1).state = .closing ∧
        (t.seg.get .seg1).disablePending = true ∧ t.job.get .up0 = some (.segmentDisable .seg1)) ∧
      ∃ t, exec (.releaseStopResult .seg1 .formed)
            (tWaiting { tSeg .owned none (some .releaseStop) with deferred := [.disable] }
              (some (.segmentDisable .seg1))) = .next t ∧
        (t.seg.get .seg1).state = .closing ∧ (t.seg.get .seg1).waiters = [.up0] ∧
        (t.session.get .up1).state = .discard ∧ (t.part .up1).decision = some (.refused .aborted) :=
  ⟨⟨_, rfl, by decide +kernel, by decide +kernel, by decide +kernel⟩,
    ⟨_, rfl, by decide +kernel, by decide +kernel, by decide +kernel⟩,
    ⟨_, rfl, by decide +kernel, by decide +kernel, by decide +kernel, by decide +kernel⟩⟩

/-- A loss under an owner in each state, held or not, UP1 waiting or not, a disable pending with its long command or none. -/
theorem test_hyp_LossQuarantines : ∀ t ∈ [SessionState.address, .connect, .write, .read], ∀ b ∈ [false, true],
    ∀ w ∈ [[], [Port.up1]], ∀ h ∈ [false, true],
      let s : State :=
        { tState tEntry (tSession t (tPart .write) (some .seg1)) tHeld
            { tSeg .owned (some .up0) none with waiters := w, disablePending := b } with
          session := ⟨tSession t (tPart .write) (some .seg1), tSession .grantWait (tPart .write) none⟩,
          upi := ⟨{ tHeld with hold := h }, tHeld⟩, job := ⟨none, if b then some (.segmentDisable .seg1) else none⟩ }
      s.phase = .inService ∧ (s.seg.get .seg1).state = .owned ∧ (s.seg.get .seg1).owner = some .up0 ∧
        (s.session.get .up0).owned = some .seg1 ∧ (s.session.get .up0).state = t ∧ t ≠ .grantWait ∧
        (s.upi.get .up0).hold = h ∧ s.waitersHeld (s.seg.get .seg1).waiters := by
  unfold State.waitersHeld
  decide

/-- Entry 0 fails each per-entry check in turn. -/
theorem test_hyp_EntryChecksInOrder :
    (tableGet (tBank tEntry).entries 0).valid = true ∧ (tableGet (tBank tEntry).entries 1).valid = false ∧
      entryFailure 0x58 (tBank { tEntry with matchAddr := 0x07 }) 0 = some ⟨.reservedAddress, 0⟩ ∧
      entryFailure 0x58 (tBank { tEntry with matchAddr := 0x58 }) 0 = some ⟨.reservedAddress, 0⟩ ∧
      entryFailure 0x58 (tBank { tEntry with target := some 0x78 }) 0 = some ⟨.reservedAddress, 0⟩ ∧
      entryFailure 0x58 (tBank { tEntry with target := some 0x80 }) 0 = some ⟨.kindMismatch, 0⟩ ∧
      entryFailure 0x58 (tBank { tEntry with creditRefill := 0, writeList := none, readList := none }) 0 =
        some ⟨.refillMissing, 0⟩ ∧
      entryFailure 0x58 (tBank tEntry) 0 = none := by decide +kernel

/-- The list checks at their bounds: a list to window 255 and one beyond, a window to 0xFF and one beyond, a list in order
and one whose second or third window is not, the write list before the read list. -/
theorem test_hyp_EntryChecksInOrder_lists :
    let b (e : Entry) : Bank :=
      { tBank e with
        windows := tableSet (tableSet (tBank e).windows 1 ⟨0x20, 0xFF⟩) 2 ⟨0x100, 0x100⟩ }
    let f (e : Entry) : Option CommitFailure := entryFailure 0x58 (b e) 0
    f { tEntry with width := .w0 } = some ⟨.widthList, 0⟩ ∧
      f { tEntry with readList := some ⟨250, 7⟩ } = some ⟨.listBounds, 0⟩ ∧
      f { tEntry with readList := some ⟨250, 6⟩ } = some ⟨.listOrder, 251⟩ ∧
      f { tEntry with readList := some ⟨0, 2⟩ } = none ∧ f { tEntry with readList := some ⟨0, 3⟩ } = some ⟨.windowValue, 2⟩ ∧
      f { tEntry with width := .w2, readList := some ⟨0, 3⟩ } = none ∧
      f { tEntry with width := .w2, readList := some ⟨1, 3⟩ } = some ⟨.listOrder, 3⟩ ∧
      f { tEntry with writeList := some ⟨3, 2⟩, readList := some ⟨250, 6⟩ } = some ⟨.listOrder, 4⟩ := by decide +kernel

theorem test_hyp_banks :
    let c : CommitJob := { port := .up0, expected := 0, running := 0xFFFF }
    let s : State := { State.reset with bc := { resetController with shadow := .validating, commit := some c } }
    s.phase = .inService ∧ s.bc.commit = some c ∧ State.reset.bc.commit = none ∧ State.reset.bc.shadow ≠ .reloading ∧
      ({ resetController with shadow := .reloading } : BankController).shadow = .reloading := by decide

theorem test_hyp_FailedCommitChangesNothing :
    let s : State := { tBase tEntry with bc := { resetController with shadow := .validating } }
    s.holder = some .up0 ∧ s.job.get .up0 = none ∧ s.bc.locked = false ∧ s.bc.shadow = .validating ∧
      runFrame .up0 0x23 [1] s = s.answered .up0 .busy [] := ⟨rfl, rfl, rfl, rfl, rfl⟩

/-- The reset bank passes every check against its own CRC, and fails CHECKSUM against another value. -/
theorem test_hyp_commit_outcomes :
    commitFailure 0x58 (bankCrc (resetBank false)) (resetBank false) = none ∧
      commitFailure 0x58 (bankCrc (resetBank false) + 1) (resetBank false) = some ⟨.checksum, 0xFFFF⟩ := by
  have h : (List.finRange 128).findSome? (entryFailure 0x58 (resetBank false)) = none ∧
      duplicateIndex (resetBank false) = none := by decide +kernel
  have ne : ∀ x : Half, x ≠ x + 1 := by
    intro x e
    have := congrArg BitVec.toNat e
    simp at this
    omega
  refine ⟨?_, if_pos (ne _)⟩
  unfold commitFailure
  rw [if_neg (fun e => e rfl), h.1, h.2]

/-! ## Management commands -/

/-- Both ports are served after reset; UP0 holds the session of tBase and UP1 does not. -/
theorem test_hyp_serves : (tBase tEntry).serves .up0 ∧ (tBase tEntry).serves .up1 ∧ (tBase tEntry).holder = some .up0 ∧
    (tBase tEntry).holder ≠ some Port.up0.other ∧ State.reset.serves .up0 ∧ State.reset.holder ≠ some .up0 :=
  ⟨⟨rfl, rfl, rfl, rfl⟩, ⟨rfl, rfl, rfl, rfl⟩, rfl, by decide, ⟨rfl, rfl, rfl, rfl⟩, by decide⟩

theorem test_hyp_SessionsOpenAndClose :
    holderCommand (.entryClear .up1 0) ∧ frameOf (.entryWrite .up1 0 []) = some (.up1, 0x22, [0]) ∧
      (Instr.entryWrite .up1 0 []).wellFormed = false ∧ (tBase tEntry).holder = some Port.up1.other ∧
      ¬ ({ State.reset with phase := .resetN } : State).serves .up0 := by
  refine ⟨⟨rfl, .up1, 0x23, [0], rfl, by decide⟩, rfl, rfl, rfl, ?_⟩
  intro h
  exact absurd h.1 (by decide)

/-- The shadow states in which staging commands and shadow reads are served, BUSY and LOCKED. -/
theorem test_hyp_shadow_states :
    (tBase tEntry).bc.locked = false ∧ (tBase tEntry).bc.shadow = .editable ∧
      ∃ s : State, s.serves .up0 ∧ s.holder = some .up0 ∧ s.bc.locked = false ∧ s.bc.shadow ≠ .editable ∧
        ({ s with bc := { s.bc with locked := true, shadow := .locked } } : State).bc.locked = true :=
  ⟨rfl, rfl, { tBase tEntry with bc := { resetController with shadow := .draining } }, ⟨rfl, rfl, rfl, rfl⟩, rfl, rfl,
    by decide, rfl⟩

/-- Images that pass and that fail their field checks, and windows at the last indices. -/
theorem test_hyp_StagingCommandsAct :
    (headerOfImage [0, 0, 0, 0, 0x03, 0xE8, 0, 7]).isSome = true ∧ headerOfImage [0, 0, 0, 0, 0, 0, 0, 7] = none ∧
      headerOfImage [2, 0, 0, 0, 0, 1, 0, 7] = none ∧ (entryOfImage workedImage).isSome = true ∧
      windowsOfImages [0, 1, 0, 1] = some [⟨1, 1⟩] ∧ windowsOfImages [0, 2, 0, 1] = none ∧
      (255 : Byte).toNat + 1 ≤ 256 ∧ 256 < (255 : Byte).toNat + (List.replicate 8 (0 : Byte)).length / 4 ∧
      (127 : Byte) = BitVec.ofNat 8 (127 : EntryIdx).val ∧ 128 ≤ (128 : Byte).toNat := by decide

/-- A Settings record at the ends of its ranges, and records just beyond them. -/
theorem test_hyp_QueueCounterAndSettings :
    settingsOfBytes (settingsImage defaultSettings) = some defaultSettings ∧
      (settingsOfBytes [1, 1, 0, 0x0F, 255, 255, 255, 0, 0, 1, 32, 60, 0, 1, 2, 0]).isSome = true ∧
      settingsOfBytes [0, 1, 0, 0x0F, 255, 255, 255, 0, 0, 1, 32, 60, 0, 1, 2, 0] = none ∧
      settingsOfBytes [1, 1, 0, 0x10, 255, 255, 255, 0, 0, 1, 32, 60, 0, 1, 2, 0] = none ∧
      settingsOfBytes [1, 1, 0, 0x0F, 255, 255, 255, 0, 0, 1, 33, 60, 0, 1, 2, 0] = none ∧
      settingsOfBytes [1, 1, 0, 0x0F, 255, 255, 255, 0, 0, 1, 32, 61, 0, 1, 2, 0] = none ∧
      settingsOfBytes [1, 1, 0, 0x0F, 255, 255, 255, 0, 0, 1, 32, 60, 0, 1, 2, 3] = none := by decide

/-- UP0 serves and holds the session while UP1 owns segment 1 in each state of it, or while its STOP of a release is
driven; UP1 may have a long command of another segment. -/
theorem test_hyp_SegmentCommandsAct : ∀ t ∈ [SegState.idle, .owned, .closing, .quarantined, .disabled],
    ∀ o ∈ [none, some Port.up1], ∀ j ∈ [none, some (LongCommand.segmentEnable .seg2)],
      ∃ s : State, s.serves .up0 ∧ s.holder = some .up0 ∧ (s.seg.get .seg1).state = t ∧
        (s.seg.get .seg1).owner = o ∧ (s.session.get .up1).owned = some .seg1 ∧
        (s.session.get .up1).state = .write ∧ (s.seg.get .seg1).waiters = [] ∧ s.job.get .up1 = j ∧
        SegId.code .seg1 = 1 := by
  intro t _ o _ j _
  exact ⟨{ tBase tEntry with
      session := ⟨idleSession, tSession .write (tPart .write) (some .seg1)⟩, job := ⟨none, j⟩,
      seg := { State.reset.seg with seg1 := tSeg t o none } },
    ⟨rfl, rfl, rfl, rfl⟩, rfl, rfl, rfl, rfl, rfl, rfl, rfl, rfl⟩

/-- ABORT_ALL with a segment to close is long; with a waiter alone it is answered at once. -/
theorem test_abortAll_counts :
    (∃ t, exec (.abortAll .up0)
        { tBase tEntry with
          session := ⟨idleSession, tSession .write (tPart .write) (some .seg1)⟩,
          seg := { State.reset.seg with seg1 := tSeg .owned (some .up1) none } } = .next t ∧
      t.job.get .up0 = some (.abortAll 1 [.seg1]) ∧ (t.seg.get .seg1).state = .closing) ∧
      ∃ t, exec (.abortAll .up0)
          { tBase tEntry with
            session := ⟨idleSession, tSession .grantWait (tPart .write) none⟩, upi := ⟨quietUpi, tHeld⟩,
            seg := { State.reset.seg with seg1 := { tSeg .closing none none with waiters := [.up1] } } } = .next t ∧
        t.job.get .up0 = none ∧ t.slot.get .up0 = ⟨.ok, [1, 2, 2, 2, 2]⟩ ∧ (t.session.get .up1).state = .discard :=
  ⟨⟨_, rfl, by decide +kernel, by decide +kernel⟩, ⟨_, rfl, by decide +kernel, by decide +kernel, by decide +kernel⟩⟩

/-- A frame of MGMT in every state of its parser. -/
theorem test_hyp_FrameEndActs :
    ∀ t ∈ [ParserState.awaitCommand, .awaitLength, .awaitArguments, .awaitCrc, .complete, .overlength, .refused],
      (tMgmt { freshParser with state := t } none).phase = .inService ∧
        ((tMgmt { freshParser with state := t } none).session.get .up0).state = .mgmt ∧
        ((tMgmt { freshParser with state := t } none).part .up0).direction = .write ∧
        ((tMgmt { freshParser with state := t } none).session.get .up0).owned = none ∧
        (tMgmt { freshParser with state := t } none).free .up0 = true ∧
        (tMgmt { freshParser with state := t } none).straps.mgmten.get .up0 = true ∧
        (tMgmt { freshParser with state := t } none).job.get .up0 = none ∧
        ((tMgmt { freshParser with state := t } none).session.get .up0).abandon.isSome = true := by decide

theorem test_hyp_ImagesDecode :
    (resetBank false).header.refillTick ≠ 0 ∧ tEntry.matchAddr.toNat ≤ 0x7F ∧ tEntry.writeLimit ≠ some 0 ∧
      tEntry.readLimit ≠ some 0 ∧ tEntry.creditLimit ≠ some 0 ∧ BankSafe (tBank tEntry) :=
  ⟨by decide, by decide, by decide, by decide, by decide, by decide, by decide +kernel, by decide +kernel⟩
end

section
/-!
PROOFS. DUPLICATE and the active bank (R22): which entries clash, which index is reported, and that no step makes a bank with
a clash active.
-/

namespace Sys2Proof.Machine

/-- Two valid entries of one kind and match address both grant one port an access (R22). -/
def Entry.Clash (e f : Entry) : Prop :=
  e.valid = true ∧ f.valid = true ∧ e.kind = f.kind ∧ e.matchAddr = f.matchAddr ∧
    ∃ p, e.access.get p ≠ .none ∧ f.access.get p ≠ .none

theorem exists_port {P : Port → Prop} : (∃ p, P p) ↔ P .up0 ∨ P .up1 :=
  ⟨fun ⟨p, h⟩ => by cases p; exacts [.inl h, .inr h], fun h => h.elim (⟨_, ·⟩) (⟨_, ·⟩)⟩

theorem Entry.clashes_iff (e f : Entry) : e.clashes f = true ↔ e.Clash f := by
  unfold Entry.clashes Entry.Clash
  rw [exists_port]
  simp [PerPort.get, and_assoc]

theorem Entry.Clash.symm {e f : Entry} : e.Clash f → f.Clash e
  | ⟨he, hf, hk, ha, p, hep, hfp⟩ => ⟨hf, he, hk.symm, ha.symm, p, hfp, hep⟩

/-- Entries that claim one address and both grant one port clash (R3, R58). -/
theorem Entry.Clash.of_claims {e f : Entry} {kind : AddrKind} {a : Addr} {p : Port} (he : e.claims kind a = true)
    (hep : e.access.get p ≠ .none) (hf : f.claims kind a = true) (hfp : f.access.get p ≠ .none) : e.Clash f := by
  simp only [Entry.claims, Bool.and_eq_true, decide_eq_true_eq] at he hf
  obtain ⟨⟨he, hek⟩, hea⟩ := he
  obtain ⟨⟨hf, hfk⟩, hfa⟩ := hf
  exact ⟨he, hf, hek.trans hfk.symm, hea.trans hfa.symm, p, hep, hfp⟩

theorem clashesBelow_iff (k : Bank) (j : EntryIdx) :
    clashesBelow k j = true ↔ ∃ i, i < j ∧ (tableGet k.entries i).Clash (tableGet k.entries j) := by
  simp [clashesBelow, Entry.clashes_iff]

/-- DUPLICATE reports the lowest index that clashes with a lower one (R22). -/
theorem duplicateIndex_eq_some_iff (k : Bank) (j : EntryIdx) :
    duplicateIndex k = some j ↔
      (∃ i, i < j ∧ (tableGet k.entries i).Clash (tableGet k.entries j)) ∧
        ∀ j', j' < j → ∀ i, i < j' → ¬ (tableGet k.entries i).Clash (tableGet k.entries j') := by
  rw [duplicateIndex, ← Fin.find?_eq_find?_finRange, Fin.find?_eq_some_iff, clashesBelow_iff]
  simp [← Bool.not_eq_true, clashesBelow_iff]

theorem duplicateIndex_eq_none_iff (k : Bank) :
    duplicateIndex k = none ↔ ∀ i j, i ≠ j → ¬ (tableGet k.entries i).Clash (tableGet k.entries j) := by
  have hnone : duplicateIndex k = none ↔
      ∀ j i, i < j → ¬ (tableGet k.entries i).Clash (tableGet k.entries j) := by
    rw [duplicateIndex, List.find?_eq_none]
    simp [clashesBelow_iff]
  rw [hnone]
  refine ⟨fun h i j hij hc => ?_, fun h j i hij => h i j hij.ne⟩
  rcases lt_or_gt_of_ne hij with hlt | hgt
  · exact h j i hlt hc
  · exact h i j hgt hc.symm

/-- No two entries of the active bank clash. -/
theorem policySafe_iff (s : State) :
    PolicySafe s ↔ ∀ i j, i ≠ j →
      ¬ (tableGet (s.bank.get s.bc.active).entries i).Clash (tableGet (s.bank.get s.bc.active).entries j) :=
  duplicateIndex_eq_none_iff _

/-- The reset contents pass DUPLICATE: no entry is valid (R23). -/
theorem duplicateIndex_resetBank (d : Bool) : duplicateIndex (resetBank d) = none := by
  rw [duplicateIndex_eq_none_iff]
  rintro i j - ⟨hv, -⟩
  simp [resetBank, clearedEntry] at hv

/-! ## Commit -/

/-- With the checksum matching and every entry passing, DUPLICATE alone decides a commit (R17, R22). -/
theorem commitFailure_of_entries_pass {m : Addr} {x : Half} {k : Bank} (hx : bankCrc k = x)
    (he : ∀ i, entryFailure m k i = none) :
    commitFailure m x k = (duplicateIndex k).map fun j => ⟨.duplicate, BitVec.ofNat 16 j.val⟩ := by
  have hnone : (List.finRange 128).findSome? (entryFailure m k) = none :=
    List.findSome?_eq_none_iff.mpr fun i _ => he i
  unfold commitFailure
  rw [if_neg (not_not_intro hx), hnone]
  cases duplicateIndex k <;> rfl

/-! ## What the commands of a reset do to the banks -/

/-- A command of a reset leaves both banks and the roles of the banks, or ends a reset with reset contents, or with two copies
of the active bank (R23, R144, R145). -/
theorem reset_banks {c : Instr} {s t : State} (hc : resetCommand c = true) (h : exec c s = .next t) :
    (t.bank = s.bank ∧ t.bc.active = s.bc.active) ∨ (∃ d, t.bank = .both (resetBank d)) ∨
      t.bank = .both (s.bank.get s.bc.active) := by
  rcases reset_cases c s t h hc with ⟨_, -, -, rfl | rfl⟩ | ⟨-, rfl⟩ | ⟨_, rfl⟩ | ⟨_, -, -, rfl⟩ | ⟨_, -, -, rfl⟩ |
    ⟨_, _, -, rfl⟩ | ⟨_, -, rfl⟩ | rfl
  · exact .inl ⟨rfl, rfl⟩
  · exact .inl ⟨rfl, rfl⟩
  · exact .inl ⟨rfl, rfl⟩
  · exact .inl ⟨rfl, rfl⟩
  · exact .inr (.inr rfl)
  · exact .inr (.inl ⟨_, rfl⟩)
  · exact .inr (.inl ⟨_, rfl⟩)
  · exact .inl ⟨rfl, rfl⟩
  · exact .inl ⟨rfl, rfl⟩

theorem reset_policySafe {c : Instr} {s t : State} (hc : resetCommand c = true) (h : exec c s = .next t)
    (hs : PolicySafe s) : PolicySafe t := by
  unfold PolicySafe at hs ⊢
  rcases reset_banks hc h with ⟨hb, ha⟩ | ⟨d, hb⟩ | hb
  · rwa [hb, ha]
  · rw [hb, PerBank.get_both]
    exact duplicateIndex_resetBank d
  · rwa [hb, PerBank.get_both]

theorem reset_banksSafe {c : Instr} {s t : State} (hc : resetCommand c = true) (h : exec c s = .next t)
    (hs : BanksSafe s) : BanksSafe t := by
  intro k
  rcases reset_banks hc h with ⟨hb, -⟩ | ⟨d, hb⟩ | hb
  · rw [hb]
    exact hs k
  · rw [hb, PerBank.get_both]
    exact resetBank_safe d
  · rw [hb, PerBank.get_both]
    exact hs s.bc.active

/-! ## What every step keeps -/

/-- No step makes a bank with a clash active (R22). -/
theorem step_keeps_policySafe : ∀ s t, PolicySafe s → step s = .next t → PolicySafe t :=
  step_keeps (fun _ _ => Iff.rfl) (fun _ _ _ h => h.policySafe) fun _ _ _ hc h => reset_policySafe hc h

/-- Settles O14: the index is the lowest by `duplicateIndex_eq_some_iff`, and the step lemma is the invariant `PolicySafe`, kept by
every effect and by every command of a reset. -/
theorem activeBankHasNoDuplicate : Obligations.ActiveBankHasNoDuplicate := by
  refine ⟨duplicateIndex_eq_some_iff, fun m x k => commitFailure_of_entries_pass, fun s t hs h => ?_,
    fun s p kind a i j hs hi hip hj hjp => ?_⟩
  · exact (policySafe_iff t).mp (step_keeps_policySafe s t ((policySafe_iff s).mpr hs) h)
  · by_contra hij
    exact hs i j hij (Entry.Clash.of_claims hi hip hj hjp)

/-- Settles O16: `BanksSafe` is kept by every effect and by every command of a reset. -/
theorem banksStayWritable : Obligations.BanksStayWritable :=
  step_keeps (fun _ _ => Iff.rfl) (fun _ _ _ h => h.banksSafe) fun _ _ _ hc h => reset_banksSafe hc h

end Sys2Proof.Machine
end

section
/-!
PROOFS. The end of a power-on reset: what it leaves, and when it comes (R23, R183, R185).
-/

namespace Sys2Proof.Machine

/-- A freshly filled account holds a bucket at its entry's limit and zero counters (R117, R121). -/
theorem freshAccounts_account (k : Bank) (i : EntryIdx) :
    tableGet (freshAccounts k) i = { bucket := freshBucket (tableGet k.entries i), hits := 0, violations := 0 } := by
  simp [freshAccounts, zeroAccount]

/-- Straps, settings, banks and roles aside, a device that enters service starts fresh, its counters zero and the buckets of its
active bank full (R185). -/
theorem enterService_startsFresh (straps : Straps) (settings : Settings) (bank : PerBank Bank) (bc : BankController)
    (accounts : PerBank (Vector EntryAccount 128)) (s : State) (hholders : bc.holders = ⟨0, 0⟩) (hdirty : bc.dirty = false)
    (hcommit : bc.commit = none)
    (hcounts : ∀ k i, (tableGet (accounts.get k) i).hits = 0 ∧ (tableGet (accounts.get k) i).violations = 0)
    (hactive : accounts.get bc.active = freshAccounts (bank.get bc.active)) :
    StartsFresh (enterService straps settings bank bc accounts s) := by
  refine ⟨rfl, rfl, fun p => ?_, fun g => ?_, hholders, hdirty, hcommit, hcounts, fun i => ?_, rfl, rfl, rfl, rfl⟩
  · cases p <;> exact ⟨rfl, rfl, rfl, rfl, rfl, rfl, rfl, rfl, rfl⟩
  · cases g <;> exact ⟨rfl, rfl⟩
  · show (tableGet (accounts.get bc.active) i).bucket = freshBucket (tableGet (bank.get bc.active).entries i)
    rw [hactive, freshAccounts_account]

theorem resetBank_hasResetContents (d : Bool) : HasResetContents d (resetBank d) := by
  refine ⟨rfl, fun i => ?_, fun j => ?_⟩
  · rw [show tableGet (resetBank d).entries i = clearedEntry by simp [resetBank]]
    decide
  · simp [resetBank]

theorem enterWithContents_startsFresh (straps : Straps) (settings : Settings) (s : State) :
    StartsFresh (enterWithContents straps settings s) := by
  refine enterService_startsFresh _ _ _ _ _ s rfl rfl rfl (fun k i => ?_) rfl
  cases k
  · simp [PerBank.get, freshAccounts_account]
  · simp [PerBank.get, zeroAccounts, zeroAccount]

/-- What a power-on reset has left when it ended, as PowerOnEnds says it (R23, R143, R185). -/
def PowerOnEnded (pins : StrapPins) (s t : State) : Prop :=
  StartsFresh t ∧ t.pending = s.pending ∧ t.straps = latchStraps pins ∧ t.settings = State.reset.settings ∧
    t.bc.active = .a ∧ t.bc.shadow = .editable ∧ t.bc.locked = false ∧
    ∀ k, HasResetContents (pins.defpol = .high) (t.bank.get k)

theorem endPowerOn_ended (pins : StrapPins) (s : State) : PowerOnEnded pins s (endPowerOn pins s) := by
  refine ⟨enterWithContents_startsFresh _ _ s, rfl, rfl, rfl, rfl, rfl, rfl, fun k => ?_⟩
  cases k <;> exact resetBank_hasResetContents _

/-- With the straps the model names a power-on reset ends in `State.reset` (log entry 1). -/
theorem endPowerOn_resetPins (s : State) :
    endPowerOn Config.resetPins s = { State.reset with pending := s.pending, choice := s.choice } := rfl

/-! ## When a power-on reset ends -/

theorem takePowerOnEnd_high {pins : StrapPins} {s : State} {b : Bool} (hp : s.phase = .powerOn b) (hr : s.resetPin = .high) :
    takePowerOnEnd pins s = endPowerOn pins s := by
  unfold takePowerOnEnd
  rw [hp, hr]

theorem takePowerOnEnd_low {pins : StrapPins} {s : State} {b : Bool} (hp : s.phase = .powerOn b) (hr : s.resetPin = .low) :
    takePowerOnEnd pins s = { s with phase := .powerOn true } := by
  unfold takePowerOnEnd
  rw [hp, hr]

theorem takeResetHigh_passed {pins : StrapPins} {s : State} (hp : s.phase = .powerOn true) :
    takeResetHigh pins s = endPowerOn pins s := by
  unfold takeResetHigh
  rw [hp]

theorem takeResetHigh_notPassed {pins : StrapPins} {s : State} (hp : s.phase = .powerOn false) :
    takeResetHigh pins s = setPin .high s := by
  unfold takeResetHigh
  rw [hp]

/-- Settles O7: both ways a power-on reset ends run `endPowerOn`, and `endPowerOn_ended` says what that leaves. -/
theorem powerOnEnds : Obligations.PowerOnEnds := by
  intro pins s
  have ends : ∃ t, Host.Outcome.next (endPowerOn pins s) = (.next t : Result) ∧ PowerOnEnded pins s t :=
    ⟨_, rfl, endPowerOn_ended pins s⟩
  refine ⟨fun b hp hr => ?_, fun b hp hr => ?_, fun hp => ?_, fun hp => ?_, fun b hp hr => ?_⟩
  · rwa [← takePowerOnEnd_high hp hr] at ends
  · exact congrArg Host.Outcome.next (takePowerOnEnd_low hp hr)
  · rwa [← takeResetHigh_passed hp] at ends
  · exact congrArg Host.Outcome.next (takeResetHigh_notPassed hp)
  · exact congrArg Host.Outcome.next ((takePowerOnEnd_high hp hr).trans (endPowerOn_resetPins s))

end Sys2Proof.Machine
end

section
/-!
PROOFS. The per-entry commit checks, one rule per check; their order; what a commit reports; and a validation that fails
(R17 to R21, R137).
-/

namespace Sys2Proof.Machine

/-! ## What each per-entry check says -/

/-- An address that a valid 7-bit entry may use (R19). -/
def Usable (a : Addr) : Prop := 0x08 ≤ a.toNat ∧ a.toNat ≤ 0x77

theorem usableAddress_iff (a : Addr) : usableAddress a = true ↔ Usable a := by
  simp [usableAddress, Usable]

/-- RESERVED_ADDRESS (R19). -/
def Entry.Reserved (m : Addr) (e : Entry) : Prop :=
  e.kind = .seven ∧
    (¬ Usable e.matchAddr ∨ e.matchAddr = m ∨ ∃ a, e.target = some a ∧ a.toNat ≤ 0x7F ∧ ¬ Usable a)

theorem reservedAddressFails_iff (m : Addr) (e : Entry) : reservedAddressFails m e = true ↔ e.Reserved m := by
  unfold reservedAddressFails Entry.Reserved
  simp only [← usableAddress_iff]
  cases e.target <;> simp [or_assoc]

/-- KIND_MISMATCH (R19). -/
def Entry.Mismatch (e : Entry) : Prop := e.kind = .seven ∧ ∃ a, e.target = some a ∧ 0x7F < a.toNat

theorem kindMismatchFails_iff (e : Entry) : kindMismatchFails e = true ↔ e.Mismatch := by
  unfold kindMismatchFails Entry.Mismatch
  cases e.target <;> simp

/-- A window list that an entry has (R8). -/
def Entry.HasList (e : Entry) (l : WindowList) : Prop := e.writeList = some l ∨ e.readList = some l

theorem Entry.mem_lists (e : Entry) (l : WindowList) : l ∈ e.lists ↔ e.HasList l := by
  simp [Entry.lists, Entry.HasList]

theorem widthListFails_iff (e : Entry) : widthListFails e = true ↔ e.width = .w0 ∧ ∃ l, e.HasList l := by
  have hlist : e.lists ≠ [] ↔ ∃ l, e.HasList l := by
    simp [← Entry.mem_lists, List.eq_nil_iff_forall_not_mem]
  rw [← hlist]
  simp [widthListFails, and_comm]

theorem listBoundsFails_iff (e : Entry) :
    listBoundsFails e = true ↔ ∃ l, e.HasList l ∧ 256 < l.first.toNat + l.count.toNat := by
  simp [listBoundsFails, Entry.mem_lists]

/-- REFILL_MISSING (R21). -/
def Entry.RefillMissing (e : Entry) : Prop :=
  (e.creditLimit.isSome ∧ e.creditRefill = 0) ∨ (e.creditLimit = none ∧ e.creditRefill ≠ 0)

theorem refillMissingFails_iff (e : Entry) : refillMissingFails e = true ↔ e.RefillMissing := by
  unfold refillMissingFails Entry.RefillMissing
  cases e.creditLimit <;> simp

/-! ## The window checks -/

theorem listIndices_eq (l : WindowList) : listIndices l = List.range' l.first.toNat l.count.toNat := by
  rw [listIndices, List.range'_eq_map_range]

/-- A window that reaches beyond 0xFF (R20). -/
def HighAt (k : Bank) (j : Nat) : Prop := ∃ w, k.windows[j]? = some w ∧ 0xFF < w.high.toNat

/-- A window not above the one before it (R20). -/
def UnorderedAt (k : Bank) (j : Nat) : Prop :=
  ∃ w v, k.windows[j - 1]? = some w ∧ k.windows[j]? = some v ∧ v.low.toNat ≤ w.high.toNat

/-- The first window of a list that reaches beyond 0xFF. -/
def FirstHigh (k : Bank) (l : WindowList) (j : Nat) : Prop :=
  l.first.toNat ≤ j ∧ j < l.first.toNat + l.count.toNat ∧ HighAt k j ∧ ∀ n, l.first.toNat ≤ n → n < j → ¬ HighAt k n

/-- The first window of a list, after its head, that is not above the one before it. -/
def FirstUnordered (k : Bank) (l : WindowList) (j : Nat) : Prop :=
  l.first.toNat < j ∧ j < l.first.toNat + l.count.toNat ∧ UnorderedAt k j ∧
    ∀ n, l.first.toNat < n → n < j → ¬ UnorderedAt k n

/-- A search of consecutive indices finds the first with the property. -/
theorem find?_range'_eq_some {f : Nat → Bool} {P : Nat → Prop} (hf : ∀ n, f n = true ↔ P n) (a n j : Nat) :
    (List.range' a n).find? f = some j ↔ a ≤ j ∧ j < a + n ∧ P j ∧ ∀ i, a ≤ i → i < j → ¬ P i := by
  have hfalse : ∀ i, (!f i) = true ↔ ¬ P i := fun i => by simp [← hf]
  rw [List.find?_range'_eq_some]
  simp only [hfalse, hf, List.mem_range'_1]
  tauto

theorem highWindow_eq_some_iff (k : Bank) (l : WindowList) (j : Nat) :
    highWindow k l = some j ↔ FirstHigh k l j := by
  unfold highWindow
  rw [listIndices_eq]
  refine find?_range'_eq_some (fun n => ?_) _ _ _
  unfold HighAt
  cases k.windows[n]? <;> simp

theorem unorderedWindow_eq_some_iff (k : Bank) (l : WindowList) (j : Nat) :
    unorderedWindow k l = some j ↔ FirstUnordered k l j := by
  have htail : (listIndices l).tail = List.range' (l.first.toNat + 1) (l.count.toNat - 1) := by
    rw [listIndices_eq, List.tail_range']
  unfold unorderedWindow
  rw [htail, find?_range'_eq_some (P := UnorderedAt k)]
  · unfold FirstUnordered
    simp only [Nat.succ_le_iff]
    refine and_congr_right fun hj => and_congr_left fun _ => ?_
    omega
  · intro n
    unfold UnorderedAt
    cases k.windows[n - 1]? <;> cases k.windows[n]? <;> simp

/-- The window a check reports: of the write list, or of the read list when the write list has none (R20). -/
def Entry.Reports (e : Entry) (bad : WindowList → Nat → Prop) (j : Nat) : Prop :=
  (∃ l, e.writeList = some l ∧ bad l j) ∨
    ((∀ l, e.writeList = some l → ∀ n, ¬ bad l n) ∧ ∃ l, e.readList = some l ∧ bad l j)

theorem Entry.findSome?_lists_eq_some_iff {f : WindowList → Option Nat} {bad : WindowList → Nat → Prop}
    (hf : ∀ l n, f l = some n ↔ bad l n) (e : Entry) (j : Nat) :
    e.lists.findSome? f = some j ↔ e.Reports bad j := by
  have hsome : ∀ (o : Option WindowList) (n : Nat),
      o.toList.findSome? f = some n ↔ ∃ l, o = some l ∧ bad l n := fun o n => by cases o <;> simp [← hf]
  have hnone : ∀ o : Option WindowList, o.toList.findSome? f = none ↔ ∀ l, o = some l → ∀ n, ¬ bad l n := fun o => by
    simp only [Option.eq_none_iff_forall_ne_some, ne_eq, hsome]
    exact ⟨fun h l hl n hb => h n ⟨l, hl, hb⟩, fun h n ⟨l, hl, hb⟩ => h l hl n hb⟩
  rw [Entry.lists, List.findSome?_append, Option.or_eq_some_iff, hsome, hsome, hnone, Entry.Reports]

theorem windowValueIndex_eq_some_iff (k : Bank) (e : Entry) (j : Nat) :
    windowValueIndex k e = some j ↔ e.width = .w1 ∧ e.Reports (FirstHigh k) j := by
  simp [windowValueIndex, ← Entry.findSome?_lists_eq_some_iff (highWindow_eq_some_iff k)]

theorem windowValueIndex_eq_none_iff (k : Bank) (e : Entry) :
    windowValueIndex k e = none ↔ (e.width = .w1 → ∀ j, ¬ e.Reports (FirstHigh k) j) := by
  simp only [Option.eq_none_iff_forall_ne_some, ne_eq, windowValueIndex_eq_some_iff, not_and]
  tauto

theorem listOrderIndex_eq_some_iff (k : Bank) (e : Entry) (j : Nat) :
    listOrderIndex k e = some j ↔ e.Reports (FirstUnordered k) j :=
  Entry.findSome?_lists_eq_some_iff (unorderedWindow_eq_some_iff k) e j

theorem listOrderIndex_eq_none_iff (k : Bank) (e : Entry) :
    listOrderIndex k e = none ↔ ∀ j, ¬ e.Reports (FirstUnordered k) j := by
  simp only [Option.eq_none_iff_forall_ne_some, ne_eq, listOrderIndex_eq_some_iff]

/-! ## The order of the per-entry checks (R17) -/

section

variable {m : Addr} {k : Bank} {i : EntryIdx}

theorem entryFailure_of_invalid (hv : (tableGet k.entries i).valid = false) : entryFailure m k i = none := by
  simp [entryFailure, hv]

variable (hv : (tableGet k.entries i).valid = true)
include hv

theorem entryFailure_of_reserved (hr : (tableGet k.entries i).Reserved m) :
    entryFailure m k i = failWith .reservedAddress i.val := by
  simp [entryFailure, hv, (reservedAddressFails_iff ..).mpr hr]

variable (hr : ¬ (tableGet k.entries i).Reserved m)
include hr

theorem entryFailure_of_mismatch (hm : (tableGet k.entries i).Mismatch) :
    entryFailure m k i = failWith .kindMismatch i.val := by
  rw [← reservedAddressFails_iff] at hr
  simp [entryFailure, hv, hr, (kindMismatchFails_iff _).mpr hm]

variable (hm : ¬ (tableGet k.entries i).Mismatch)
include hm

theorem entryFailure_of_listed (hl : (tableGet k.entries i).width = .w0 ∧ ∃ l, (tableGet k.entries i).HasList l) :
    entryFailure m k i = failWith .widthList i.val := by
  rw [← reservedAddressFails_iff] at hr
  rw [← kindMismatchFails_iff] at hm
  simp [entryFailure, hv, hr, hm, (widthListFails_iff _).mpr hl]

variable (hl : ¬ ((tableGet k.entries i).width = .w0 ∧ ∃ l, (tableGet k.entries i).HasList l))
include hl

theorem entryFailure_of_outside
    (ho : ∃ l, (tableGet k.entries i).HasList l ∧ 256 < l.first.toNat + l.count.toNat) :
    entryFailure m k i = failWith .listBounds i.val := by
  rw [← reservedAddressFails_iff] at hr
  rw [← kindMismatchFails_iff] at hm
  rw [← widthListFails_iff] at hl
  simp [entryFailure, hv, hr, hm, hl, (listBoundsFails_iff _).mpr ho]

variable (ho : ¬ ∃ l, (tableGet k.entries i).HasList l ∧ 256 < l.first.toNat + l.count.toNat)
include ho

/-- An entry that passes the first four checks is judged by its windows and its refill. -/
theorem entryFailure_of_bounded :
    entryFailure m k i =
      ((windowValueIndex k (tableGet k.entries i)).bind (failWith .windowValue)).or
        (((listOrderIndex k (tableGet k.entries i)).bind (failWith .listOrder)).or
          (if refillMissingFails (tableGet k.entries i) then failWith .refillMissing i.val else none)) := by
  rw [← reservedAddressFails_iff] at hr
  rw [← kindMismatchFails_iff] at hm
  rw [← widthListFails_iff] at hl
  rw [← listBoundsFails_iff] at ho
  cases hw : windowValueIndex k (tableGet k.entries i) <;> cases hn : listOrderIndex k (tableGet k.entries i) <;>
    simp [entryFailure, hv, hr, hm, hl, ho, hw, hn, failWith]

end

/-! ## What a commit reports -/

theorem failWith_ne_checksum {r : CommitReason} {i : Nat} {f : CommitFailure} (hr : r ≠ .checksum)
    (h : failWith r i = some f) : f.reason ≠ .checksum := by
  cases h
  exact hr

/-- CHECKSUM is no per-entry check. -/
theorem entryFailure_ne_checksum {m : Addr} {k : Bank} {i : EntryIdx} {f : CommitFailure}
    (h : entryFailure m k i = some f) : f.reason ≠ .checksum := by
  unfold entryFailure at h
  dsimp only at h
  split at h
  · cases h
  split at h
  · exact failWith_ne_checksum (by decide) h
  split at h
  · exact failWith_ne_checksum (by decide) h
  split at h
  · exact failWith_ne_checksum (by decide) h
  split at h
  · exact failWith_ne_checksum (by decide) h
  split at h
  · exact failWith_ne_checksum (by decide) h
  split at h
  · exact failWith_ne_checksum (by decide) h
  split at h
  · exact failWith_ne_checksum (by decide) h
  · cases h

/-- The first entry that fails is reported, once the checksum matches (R17). -/
theorem commitFailure_of_first {m : Addr} {x : Half} {k : Bank} {i : EntryIdx} {f : CommitFailure} (hx : bankCrc k = x)
    (hbefore : ∀ j, j < i → entryFailure m k j = none) (hi : entryFailure m k i = some f) :
    commitFailure m x k = some f := by
  have hfirst : (List.finRange 128).findSome? (entryFailure m k) = some f := by
    rw [← Fin.findSome?_eq_findSome?_finRange, Fin.findSome?_eq_some_iff]
    exact ⟨i, hi, hbefore⟩
  unfold commitFailure
  rw [if_neg (not_not_intro hx), hfirst]

/-- CHECKSUM is reported, with 0xFFFF, exactly if the bank CRC differs from the expected value (R18). -/
theorem commitFailure_checksum_iff (m : Addr) (x : Half) (k : Bank) :
    commitFailure m x k = some ⟨.checksum, 0xFFFF⟩ ↔ bankCrc k ≠ x := by
  refine ⟨fun h hx => ?_, fun hx => if_pos hx⟩
  unfold commitFailure at h
  rw [if_neg (not_not_intro hx)] at h
  cases hf : (List.finRange 128).findSome? (entryFailure m k) with
  | some f =>
    obtain ⟨i, -, hi⟩ := List.exists_of_findSome?_eq_some hf
    rw [hf] at h
    cases h
    exact entryFailure_ne_checksum hi rfl
  | none =>
    rw [hf] at h
    cases hd : duplicateIndex k with
    | some j =>
      rw [hd] at h
      exact failWith_ne_checksum (by decide) h rfl
    | none =>
      rw [hd] at h
      cases h

/-- Settles O50: one lemma per check, under the negations of the checks before it. -/
theorem entryChecksInOrder : Obligations.EntryChecksInOrder := by
  refine ⟨fun m k i => ⟨entryFailure_of_invalid, fun hv => ⟨entryFailure_of_reserved hv, entryFailure_of_mismatch hv,
    entryFailure_of_listed hv, entryFailure_of_outside hv, fun hr hm hl ho => ?_⟩⟩,
    fun m x k i f => commitFailure_of_first⟩
  have hbounded := entryFailure_of_bounded hv hr hm hl ho
  refine ⟨fun j hw hj => ?_, fun hw => ?_⟩
  · rw [hbounded, (windowValueIndex_eq_some_iff ..).mpr ⟨hw, hj⟩]
    rfl
  rw [(windowValueIndex_eq_none_iff ..).mpr hw] at hbounded
  refine ⟨fun j hj => ?_, fun hn => ?_⟩
  · rw [hbounded, (listOrderIndex_eq_some_iff ..).mpr hj]
    rfl
  rw [(listOrderIndex_eq_none_iff ..).mpr hn] at hbounded
  refine ⟨fun h => ?_, fun h => ?_⟩
  · rw [hbounded, if_pos ((refillMissingFails_iff _).mpr h)]
    rfl
  · rw [hbounded, if_neg (mt (refillMissingFails_iff _).mp h)]
    rfl

end Sys2Proof.Machine
end

section
/-!
PROOFS. The holder's staging commands by the state of the shadow, and a validation that fails (R13 to R18, R129, R130, R133, R135,
R137, R142).
-/

namespace Sys2Proof.Machine

/-! ## How the Bank Controller takes a staging command (R129) -/

theorem staged_locked {p : Port} {take : State → State} {s : State} (hl : s.bc.locked = true) :
    staged p take s = finishCommand p .locked [] s := if_pos hl

theorem staged_busy {p : Port} {take : State → State} {s : State} (hl : s.bc.locked = false)
    (he : s.bc.shadow ≠ .editable) : staged p take s = finishCommand p .busy [] s := by
  simp [staged, hl, he]

theorem staged_editable {p : Port} {take : State → State} {s : State} (hl : s.bc.locked = false)
    (he : s.bc.shadow = .editable) : staged p take s = take s := by
  simp [staged, hl, he]

/-- A command that completes, of a port without a long command in progress, answers the slot. -/
theorem finishCommand_idle {p : Port} {t : Status} {l : List Byte} {s : State} (hj : s.job.get p = none) :
    finishCommand p t l s = { s with slot := s.slot.set p ⟨t, l⟩ } := by
  have hjob : s.job.set p none = s.job := by rw [← hj, PerPort.set_get]
  unfold finishCommand State.setSlot State.setJob
  rw [hjob]

/-! ## The effects of the staging commands -/

/-- The shadow replaced by an edit that passed its field checks, the command answered OK (R130). -/
def State.edited (s : State) (p : Port) (k : Bank) : State :=
  { s.answered p .ok [] with bank := s.bank.set s.shadowId k, bc := { s.bc with dirty := true } }

theorem editShadow_some {p : Port} {s : State} (hj : s.job.get p = none) (f : Bank → Bank) :
    editShadow p (some f) { s with idle := s.idleAfter p } = s.edited p (f (s.bank.get s.shadowId)) :=
  finishCommand_idle hj

theorem editShadow_none {p : Port} {s : State} (hj : s.job.get p = none) :
    editShadow p none { s with idle := s.idleAfter p } = s.answered p .range [] :=
  finishCommand_idle hj

theorem entryIdxOfByte_ofNat (i : EntryIdx) : entryIdxOfByte (BitVec.ofNat 8 i.val) = some i := by
  have hi : (BitVec.ofNat 8 i.val).toNat = i.val := by
    rw [BitVec.toNat_ofNat]
    omega
  simp [entryIdxOfByte, hi]

theorem entryIdxOfByte_eq_none {x : Byte} (hx : 128 ≤ x.toNat) : entryIdxOfByte x = none :=
  dif_neg (Nat.not_lt.mpr hx)

theorem entryEdit_eq_none {x : Byte} {l : List Byte} (h : 128 ≤ x.toNat ∨ entryOfImage l = none) :
    entryEdit x l = none := by
  unfold entryEdit
  rcases h with hx | hl
  · rw [entryIdxOfByte_eq_none hx]
  · rw [hl]
    cases entryIdxOfByte x <;> rfl

theorem length_of_windowsOfImages : ∀ {l : List Byte} {ws : List Window},
    windowsOfImages l = some ws → l.length = 4 * ws.length
  | [], ws, h => by cases h; rfl
  | [_], _, h => by cases h
  | [_, _], _, h => by cases h
  | [_, _, _], _, h => by cases h
  | l1 :: l2 :: h1 :: h2 :: rest, ws, h => by
    unfold windowsOfImages at h
    split at h
    · obtain ⟨r, hr, rfl⟩ := Option.map_eq_some_iff.mp h
      have ih := length_of_windowsOfImages hr
      simp only [List.length_cons]
      omega
    · cases h

theorem windowEdit_eq_none {x : Byte} {l : List Byte}
    (h : windowsOfImages l = none ∨ 256 < x.toNat + l.length / 4) : windowEdit x l = none := by
  unfold windowEdit
  cases hw : windowsOfImages l with
  | none => rfl
  | some ws =>
    have hlen := length_of_windowsOfImages hw
    have hbig : ¬ x.toNat + ws.length ≤ 256 := by
      rcases h with h | h
      · rw [hw] at h
        cases h
      · omega
    exact if_neg hbig

/-- Windows stored from an index on stand there in their order; the others are as before (R15). -/
theorem tableGet_storeWindows (l : List Window) (i : Nat) (v : Vector Window 256) (hl : i + l.length ≤ 256) (j : WindowIdx) :
    tableGet (storeWindows i l v) j =
      if i ≤ j.val then (l[j.val - i]?).getD (tableGet v j) else tableGet v j := by
  induction l generalizing i v with
  | nil => simp [storeWindows]
  | cons w rest ih =>
    have hi : i < 256 := by
      rw [List.length_cons] at hl
      omega
    have hset : tableGet (v.set i w hi) j = if j = ⟨i, hi⟩ then w else tableGet v j := tableGet_tableSet v ⟨i, hi⟩ j w
    unfold storeWindows
    rw [dif_pos hi, ih _ _ (by rw [List.length_cons] at hl; omega), hset]
    rcases Nat.lt_trichotomy i j.val with hlt | heq | hgt
    · have hne : j ≠ ⟨i, hi⟩ := Fin.ne_of_val_ne hlt.ne'
      rw [if_neg hne, if_pos (Nat.succ_le_of_lt hlt), if_pos hlt.le,
        show j.val - i = (j.val - (i + 1)) + 1 by omega, List.getElem?_cons_succ]
    · subst heq
      simp
    · have hne : j ≠ ⟨i, hi⟩ := Fin.ne_of_val_ne hgt.ne
      rw [if_neg hne, if_neg (by omega), if_neg (by omega)]

/-! ## The staging commands as rows of the table: each is its command's frame, offered to the Bank Controller -/

section

variable {p : Port} {s : State} (hs : s.serves p) (hh : s.holder = some p)
include hs hh

theorem exec_headerWrite {l : List Byte} (hl : l.length = 8) :
    exec (.headerWrite p l) s =
      .next (staged p (editShadow p (headerEdit l)) { s with idle := s.idleAfter p }) :=
  congrArg _ (viaFrame_runs hs (List.mem_singleton.mpr hl) (.inr hh))

theorem exec_entryWrite {x : Byte} {l : List Byte} (hl : l.length = 16) :
    exec (.entryWrite p x l) s =
      .next (staged p (editShadow p (entryEdit x l)) { s with idle := s.idleAfter p }) :=
  congrArg _ (viaFrame_runs hs (List.mem_singleton.mpr (congrArg (· + 1) hl)) (.inr hh))

theorem exec_entryClear (x : Byte) :
    exec (.entryClear p x) s =
      .next (staged p (editShadow p (clearEdit x)) { s with idle := s.idleAfter p }) :=
  congrArg _ (viaFrame_runs hs (List.mem_singleton.mpr rfl) (.inr hh))

theorem exec_windowWrite {x : Byte} {l : List Byte} (hl : (Instr.windowWrite p x l).wellFormed = true) :
    exec (.windowWrite p x l) s =
      .next (staged p (editShadow p (windowEdit x l)) { s with idle := s.idleAfter p }) := by
  have hlen : (x :: l).length ∈ MgmtCommand.lengths .windowWrite := by
    simpa [Instr.wellFormed, MgmtCommand.lengths] using hl
  exact congrArg _ (viaFrame_runs hs hlen (.inr hh))

theorem exec_shadowReload :
    exec (.shadowReload p) s = .next (staged p (takeReload p) { s with idle := s.idleAfter p }) :=
  congrArg _ (viaFrame_runs hs (List.mem_singleton.mpr rfl) (.inr hh))

theorem exec_commit (x : Half) :
    exec (.commit p x) s = .next (staged p (takeCommit p x) { s with idle := s.idleAfter p }) := by
  have hrun : perform p .commit (be16 x) { s with idle := s.idleAfter p } =
      staged p (takeCommit p x) { s with idle := s.idleAfter p } := by
    show staged p (takeCommit p (halfOf (x.extractLsb' 8 8) (x.extractLsb' 0 8))) _ = _
    rw [halfOf_be16]
  exact congrArg _ ((viaFrame_runs hs (List.mem_singleton.mpr rfl) (.inr hh)).trans hrun)

theorem exec_lockdown :
    exec (.lockdown p) s = .next (staged p (takeLockdown p) { s with idle := s.idleAfter p }) :=
  congrArg _ (viaFrame_runs hs (List.mem_singleton.mpr rfl) (.inr hh))

/-- Every well-formed staging command is offered to the Bank Controller. -/
theorem exec_staging {c : Instr} (hw : c.wellFormed = true)
    (hc : (∃ l, c = .headerWrite p l) ∨ (∃ x l, c = .entryWrite p x l) ∨ (∃ x, c = .entryClear p x) ∨
      (∃ x l, c = .windowWrite p x l) ∨ c = .shadowReload p ∨ (∃ x, c = .commit p x) ∨ c = .lockdown p) :
    ∃ take, exec c s = .next (staged p take { s with idle := s.idleAfter p }) := by
  rcases hc with ⟨l, rfl⟩ | ⟨x, l, rfl⟩ | ⟨x, rfl⟩ | ⟨x, l, rfl⟩ | rfl | ⟨x, rfl⟩ | rfl
  · exact ⟨_, exec_headerWrite hs hh (by simpa [Instr.wellFormed] using hw)⟩
  · exact ⟨_, exec_entryWrite hs hh (by simpa [Instr.wellFormed] using hw)⟩
  · exact ⟨_, exec_entryClear hs hh x⟩
  · exact ⟨_, exec_windowWrite hs hh hw⟩
  · exact ⟨_, exec_shadowReload hs hh⟩
  · exact ⟨_, exec_commit hs hh x⟩
  · exact ⟨_, exec_lockdown hs hh⟩

end

/-- Settles O55: a staging row is its command offered to the Bank Controller, whose answer is that of R129. -/
theorem stagingCommandsAct : Obligations.StagingCommandsAct := by
  intro p s hs hh
  have ⟨_, _, hj, _⟩ := hs
  refine ⟨fun c hw hc => ?_, fun hl he => ?_⟩
  · obtain ⟨take, hrun⟩ := exec_staging hs hh hw hc
    refine ⟨fun hl => ?_, fun hl he => ?_⟩
    · rw [hrun, staged_locked (by exact hl), finishCommand_answered hs]
    · rw [hrun, staged_busy (by exact hl) (by exact he), finishCommand_answered hs]
  · have edits : ∀ {c : Instr} {edit : Option (Bank → Bank)},
        exec c s = .next (staged p (editShadow p edit) { s with idle := s.idleAfter p }) →
          exec c s = .next (editShadow p edit { s with idle := s.idleAfter p }) :=
      fun hrun => hrun.trans (congrArg _ (staged_editable (by exact hl) (by exact he)))
    refine ⟨fun l hlen => ⟨fun h hok => ?_, fun hbad => ?_⟩, fun x l hlen => ⟨fun i e hx hok => ?_, fun hbad => ?_⟩,
      fun i => ⟨clearedEntry, by decide, ?_⟩, fun x hx => ?_, fun x l hw => ⟨fun ws hok hfit => ?_, fun hbad => ?_⟩,
      ?_, fun x => ?_, ?_⟩
    · rw [edits (exec_headerWrite hs hh hlen), headerEdit, hok]
      exact congrArg _ (editShadow_some hj _)
    · rw [edits (exec_headerWrite hs hh hlen), headerEdit, hbad]
      exact congrArg _ (editShadow_none hj)
    · rw [edits (exec_entryWrite hs hh hlen), entryEdit, hx, entryIdxOfByte_ofNat, hok]
      exact congrArg _ (editShadow_some hj _)
    · rw [edits (exec_entryWrite hs hh hlen), entryEdit_eq_none hbad]
      exact congrArg _ (editShadow_none hj)
    · rw [edits (exec_entryClear hs hh _), clearEdit, entryIdxOfByte_ofNat]
      exact congrArg _ (editShadow_some hj _)
    · rw [edits (exec_entryClear hs hh x), clearEdit, entryIdxOfByte_eq_none hx]
      exact congrArg _ (editShadow_none hj)
    · refine ⟨_, tableGet_storeWindows ws x.toNat _ hfit, ?_⟩
      rw [edits (exec_windowWrite hs hh hw), windowEdit, hok]
      dsimp only
      rw [if_pos hfit]
      exact congrArg _ (editShadow_some hj _)
    · rw [edits (exec_windowWrite hs hh hw), windowEdit_eq_none hbad]
      exact congrArg _ (editShadow_none hj)
    · rw [exec_shadowReload hs hh, staged_editable (by exact hl) (by exact he)]
      rfl
    · rw [exec_commit hs hh, staged_editable (by exact hl) (by exact he)]
      rfl
    · rw [exec_lockdown hs hh, staged_editable (by exact hl) (by exact he)]
      exact congrArg _ (finishCommand_idle hj)

/-! ## A shadow under validation, and a validation that fails -/

/-- A frame of the holder with the length of its command, outside EDITABLE: an edit is answered BUSY, the idle timer started (R129,
R163). -/
theorem runFrame_edit_busy {p : Port} {c : MgmtCommand} {args : List Byte} {s : State} (hh : s.holder = some p)
    (hj : s.job.get p = none) (hl : s.bc.locked = false) (he : s.bc.shadow ≠ .editable) (hlen : args.length ∈ c.lengths)
    (hc : c = .headerWrite ∨ c = .entryWrite ∨ c = .entryClear ∨ c = .windowWrite) :
    runFrame p c.code args s = s.answered p .busy [] := by
  have hbusy : perform p c args { s with idle := some s.settings.idleTimeout } =
      finishCommand p .busy [] { s with idle := some s.settings.idleTimeout } := by
    rcases hc with rfl | rfl | rfl | rfl <;> exact staged_busy hl he
  have htouch : touchIdle p s = { s with idle := some s.settings.idleTimeout } := if_pos hh
  have hidle : s.idleAfter p = some s.settings.idleTimeout := if_pos hh
  unfold runFrame
  rw [commandOfByte_code]
  dsimp only
  unfold runCommand
  rw [if_pos hlen, htouch]
  dsimp only
  rw [if_neg (fun h => h.2 hh), hbusy, finishCommand_idle (by exact hj), State.answered, hidle]

/-- The validation of a commit that a check fails (R137). -/
theorem completeValidation_fails {j : CommitJob} {f : CommitFailure} {s : State} (hj : s.bc.commit = some j)
    (hf : commitFailure s.managementAddress j.expected (s.bank.get s.shadowId) = some f) :
    completeValidation s = failCommit j f s := by
  unfold completeValidation
  rw [hj]
  dsimp only
  rw [hf]

/-- Settles O49: an edit is offered to a Bank Controller that is not EDITABLE, and a validation that fails runs `failCommit`. -/
theorem failedCommitChangesNothing : Obligations.FailedCommitChangesNothing := by
  refine ⟨commitFailure_checksum_iff, fun _ => rfl, fun p code args s hh hj hl hv hc => ?_, fun j f s hp hj hf => ?_⟩
  · have he : s.bc.shadow ≠ .editable := by
      rw [hv]
      decide
    rcases hc with ⟨rfl, hlen⟩ | ⟨rfl, hlen⟩ | ⟨rfl, hlen⟩ | ⟨rfl, hlen⟩
    · exact runFrame_edit_busy (c := .headerWrite) hh hj hl he (List.mem_singleton.mpr hlen) (by simp)
    · exact runFrame_edit_busy (c := .entryWrite) hh hj hl he (List.mem_singleton.mpr hlen) (by simp)
    · exact runFrame_edit_busy (c := .entryClear) hh hj hl he (List.mem_singleton.mpr hlen) (by simp)
    · exact runFrame_edit_busy (c := .windowWrite) hh hj hl he hlen (by simp)
  · exact congrArg _ ((inService_eq _ hp).trans (completeValidation_fails hj hf))

end Sys2Proof.Machine
end

section
/-!
PROOFS. Every image decodes to the item it was made of, every accepted image is the image of what it decodes to, and the 3080
bytes of a bank fix the bank (R2, R14, R15, R180, R189, R192).
-/

namespace Sys2Proof.Machine

/-! ## The header -/

theorem segOfByte_code (g : SegId) : segOfByte (SegId.code g) = some g := by
  cases g <;> rfl

theorem headerOfImage_headerImage {h : Header} (ht : h.refillTick ≠ 0) : headerOfImage (headerImage h) = some h := by
  obtain ⟨d, ds, g, gs, tick, tag⟩ := h
  have hd : yesNoOfByte (if d = .forward then 1 else 0) = some (d = .forward : Bool) := by cases d <;> rfl
  have hg : yesNoOfByte (if g = .forward then 1 else 0) = some (g = .forward : Bool) := by cases g <;> rfl
  simp only [headerImage, be16, List.cons_append, List.nil_append, headerOfImage, hd, hg, segOfByte_code, halfOf_be16]
  rw [if_neg ht]
  cases d <;> cases g <;> rfl

/-! ## The fields of an entry -/

theorem entryFlags_bits : ∀ (v k l m t : Bool) (w : Width),
    let f : Byte := (bit v ++ bit k ++ bit l ++ bit m ++ bit t ++ 0#1 ++ Width.code w : BitVec (1 + 1 + 1 + 1 + 1 + 1 + 2))
    f.getLsbD 7 = v ∧ f.getLsbD 6 = k ∧ f.getLsbD 5 = l ∧ f.getLsbD 4 = m ∧ f.getLsbD 3 = t ∧ f.getLsbD 2 = false ∧
      widthOfBits (f.extractLsb' 0 2) = some w := by
  intro v k l m t w
  revert v k l m t
  cases w <;> decide

theorem accessByte_fields (x y : Access) (g : SegId) :
    let a : Byte := (0#2 ++ Access.code y ++ Access.code x ++ SegId.bits g : BitVec (2 + 2 + 2 + 2))
    a.extractLsb' 6 2 = 0 ∧ accessOfBits (a.extractLsb' 4 2) = y ∧ accessOfBits (a.extractLsb' 2 2) = x ∧
      segOfBits (a.extractLsb' 0 2) = g := by
  cases x <;> cases y <;> cases g <;> decide

/-- The upper byte of a 10-bit field has the field's two high bits and no other. -/
theorem addrHighByte_toNat (a : Addr) : (0#6 ++ addrHigh a : Byte).toNat = a.toNat / 256 := by
  have h : (0#6 ++ addrHigh a : Byte).toNat = (0#6).toNat <<< 2 ||| (addrHigh a).toNat := BitVec.toNat_append _ _
  rw [h]
  simp [addrHigh, BitVec.extractLsb'_toNat, Nat.shiftRight_eq_div_pow]
  omega

theorem addrLow_toNat (a : Addr) : (addrLow a).toNat = a.toNat % 256 := by
  simp [addrLow, BitVec.extractLsb'_toNat]

theorem addr10_addrImage (a : Addr) : addr10 ((0#6 ++ addrHigh a : Byte).extractLsb' 0 2) (addrLow a) = a := by
  apply BitVec.eq_of_toNat_eq
  rw [addr10_toNat, BitVec.extractLsb'_toNat, addrHighByte_toNat, addrLow_toNat]
  have := a.isLt
  simp
  omega

theorem matchOfBytes_addrImage {kind : AddrKind} {a : Addr} (h : kind = .seven → a.toNat ≤ 0x7F) :
    matchOfBytes kind (0#6 ++ addrHigh a) (addrLow a) = some a := by
  have hlt := a.isLt
  have hfits : (0#6 ++ addrHigh a : Byte).toNat < 4 ∧
      (kind = .seven → (0#6 ++ addrHigh a : Byte) = 0 ∧ (addrLow a).toNat < 128) := by
    rw [← BitVec.toNat_inj, addrHighByte_toNat, addrLow_toNat]
    refine ⟨by omega, fun hk => ?_⟩
    have := h hk
    simp
    omega
  rw [matchOfBytes, if_pos hfits, addr10_addrImage]

theorem targetOfBytes_addrImage (t : Option Addr) :
    targetOfBytes t.isSome (0#6 ++ addrHigh (t.getD 0)) (addrLow (t.getD 0)) = some t := by
  cases t with
  | none => rfl
  | some a =>
    have hlt := a.isLt
    have hfits : (0#6 ++ addrHigh a : Byte).toNat < 4 := by
      rw [addrHighByte_toNat]
      omega
    simp [targetOfBytes, hfits, addr10_addrImage]

/-- The two bytes of an optional window list decode to it when its count is 1 to 16 (R8, R14). -/
theorem exists_listImage {o : Option WindowList} (h : ∀ l, o = some l → 1 ≤ l.count.toNat ∧ l.count.toNat ≤ 16) :
    ∃ x y, listImage o = [x, y] ∧ listOfBytes x y = some o := by
  cases o with
  | none => exact ⟨0, 0, rfl, rfl⟩
  | some l =>
    obtain ⟨hpos, hle⟩ := h l rfl
    have hne : l.count ≠ 0 := fun hz => by
      rw [hz] at hpos
      exact absurd hpos (by decide)
    refine ⟨l.first, l.count, rfl, ?_⟩
    rw [listOfBytes, if_neg hne, if_pos hle]

theorem limitOfByte_limitImage {o : Option Byte} (h : o ≠ some 0) : limitOfByte (limitImage o) = o := by
  cases o with
  | none => rfl
  | some x => exact if_neg fun hx => h (congrArg some hx)

/-- What could be written decodes from its image to itself (R14). -/
theorem entryOfImage_entryImage {e : Entry} (hmatch : e.kind = .seven → e.matchAddr.toNat ≤ 0x7F)
    (hlists : ∀ l, e.writeList = some l ∨ e.readList = some l → 1 ≤ l.count.toNat ∧ l.count.toNat ≤ 16)
    (hw : e.writeLimit ≠ some 0) (hr : e.readLimit ≠ some 0) (hc : e.creditLimit ≠ some 0) :
    entryOfImage (entryImage e) = some e := by
  obtain ⟨valid, kind, addr, target, segment, ⟨x, y⟩, width, mode, wl, rl, wlim, rlim, clim, refill, action⟩ := e
  obtain ⟨w1, w2, himgw, hdecw⟩ := exists_listImage (o := wl) fun l h => hlists l (.inl h)
  obtain ⟨r1, r2, himgr, hdecr⟩ := exists_listImage (o := rl) fun l h => hlists l (.inr h)
  obtain ⟨hvalid, hkind, haction, hmode, htarget, hzero, hwidth⟩ :=
    entryFlags_bits valid (kind = .ten) (action = .logOnly) (mode = .everyByte) target.isSome width
  obtain ⟨hunused, hy, hx, hseg⟩ := accessByte_fields x y segment
  have hkind' : (if decide (kind = .ten) = true then AddrKind.ten else .seven) = kind := by cases kind <;> rfl
  have haction' : (if decide (action = .logOnly) = true then Action.logOnly else .refuse) = action := by
    cases action <;> rfl
  have hmode' : (if decide (mode = .everyByte) = true then WindowMode.everyByte else .atStart) = mode := by
    cases mode <;> rfl
  simp only [entryImage, addrImage, himgw, himgr, List.cons_append, List.nil_append, entryOfImage, entryFlags,
    entryAccessByte, hvalid, hkind, haction, hmode, htarget, hzero, hwidth, hunused, hy, hx, hseg, hkind', haction', hmode',
    matchOfBytes_addrImage hmatch, targetOfBytes_addrImage, hdecw, hdecr, limitOfByte_limitImage hw,
    limitOfByte_limitImage hr, limitOfByte_limitImage hc, and_self, if_true]

/-! ## Windows -/

/-- Four bytes at the front of some images are those of the first window (R15). -/
theorem windowImage_mk (l1 l2 h1 h2 : Byte) : windowImage ⟨halfOf l1 l2, halfOf h1 h2⟩ = [l1, l2, h1, h2] := by
  simp [windowImage, be16_halfOf]

theorem flatMap_windowImage : ∀ {l : List Byte} {ws : List Window},
    windowsOfImages l = some ws → ws.flatMap windowImage = l
  | [], ws, h => by cases h; rfl
  | [_], _, h => by cases h
  | [_, _], _, h => by cases h
  | [_, _, _], _, h => by cases h
  | l1 :: l2 :: h1 :: h2 :: rest, ws, h => by
    unfold windowsOfImages at h
    split at h
    · obtain ⟨r, hr, rfl⟩ := Option.map_eq_some_iff.mp h
      rw [List.flatMap_cons, windowImage_mk, flatMap_windowImage hr]
      rfl
    · cases h

theorem windowsOfImages_append {w : Window} (hw : w.low.toNat ≤ w.high.toNat) (rest : List Byte) :
    windowsOfImages (windowImage w ++ rest) = (windowsOfImages rest).map (w :: ·) := by
  simp only [windowImage, be16, List.cons_append, List.nil_append, windowsOfImages, halfOf_be16]
  rw [if_pos hw]

theorem windowsOfImages_flatMap (ws : List Window) (h : ∀ w ∈ ws, w.low.toNat ≤ w.high.toNat) :
    windowsOfImages (ws.flatMap windowImage) = some ws := by
  induction ws with
  | nil => rfl
  | cons w rest ih =>
    obtain ⟨hw, hrest⟩ := List.forall_mem_cons.mp h
    rw [List.flatMap_cons, windowsOfImages_append hw, ih hrest, Option.map_some]

/-! ## The Settings record -/

theorem maskOfByte_maskByte (m : AlertMask) : maskOfByte (maskByte m) = some m := by
  obtain ⟨q, e, c, o⟩ := m
  revert q e c o
  decide

theorem maskByte_of : ∀ {b : Byte} {m : AlertMask}, maskOfByte b = some m → maskByte m = b := by
  have hbits : ∀ b : Byte, b.toNat < 16 →
      maskByte
        { queue := b.getLsbD 0, segmentEvent := b.getLsbD 1, commitDone := b.getLsbD 2, overflow := b.getLsbD 3 } = b := by
    decide
  intro b m h
  unfold maskOfByte at h
  split at h
  · rename_i hb
    cases h
    exact hbits b hb
  · cases h

theorem speedOfByte_code (v : Speed) : speedOfByte (Speed.code v) = some v := by
  cases v <;> rfl

theorem speed_code {b : Byte} {v : Speed} (h : speedOfByte b = some v) : Speed.code v = b := by
  revert b
  cases v <;> decide

theorem portSettingsImage_of {st ab wa ma : Byte} {r : PortSettings} (h : portSettingsOfBytes st ab wa ma = some r) :
    portSettingsImage r = [st, ab, wa, ma] := by
  unfold portSettingsOfBytes at h
  split at h
  · cases h
  · obtain ⟨m, hm, rfl⟩ := Option.map_eq_some_iff.mp h
    simp only [portSettingsImage, maskByte_of hm]

theorem portSettingsOfBytes_image {r : PortSettings} (hs : 1 ≤ r.stretch.toNat) (ha : 1 ≤ r.abandon.toNat) :
    portSettingsOfBytes r.stretch r.abandon r.wait (maskByte r.mask) = some r := by
  have hne : ¬ (r.stretch = 0 ∨ r.abandon = 0) := by bv_omega
  rw [portSettingsOfBytes, if_neg hne, maskOfByte_maskByte]
  rfl

/-- SETTINGS_WRITE stores a record whose image is the one it carried (R180). -/
theorem settingsImage_of {l : List Byte} {r : Settings} (h : settingsOfBytes l = some r) : settingsImage r = l := by
  unfold settingsOfBytes at h
  split at h
  · split at h
    · rename_i h0 h1 hv0 hv1 hv2 hv3
      split at h
      · cases h
      · cases h
        simp only [settingsImage, portSettingsImage_of h0, portSettingsImage_of h1, speed_code hv0, speed_code hv1,
          speed_code hv2, speed_code hv3]
        rfl
    · cases h
  · cases h

/-- A record in range decodes from its image to itself (R179, R180). -/
theorem settingsOfBytes_settingsImage {r : Settings} (h : SettingsSafe r) : settingsOfBytes (settingsImage r) = some r := by
  obtain ⟨hport, hhold, ⟨hw, hw'⟩, hi, hi'⟩ := h
  have h0 := portSettingsOfBytes_image (hport .up0).1 (hport .up0).2
  have h1 := portSettingsOfBytes_image (hport .up1).1 (hport .up1).2
  have hranges : ¬ (r.holdLimit = 0 ∨ r.watermark = 0 ∨ 32 < r.watermark.toNat ∨ r.idleTimeout = 0 ∨
      60 < r.idleTimeout.toNat) := by bv_omega
  simp only [PerPort.get] at h0 h1
  simp only [settingsImage, portSettingsImage, List.cons_append, List.nil_append, settingsOfBytes, h0, h1, speedOfByte_code]
  rw [if_neg hranges]

/-! ## The image of a bank -/

/-- Images of one length, one after the other, tell their items apart. -/
theorem flatMap_inj {α β : Type} {f : α → List β} {n : Nat} (hlen : ∀ x, (f x).length = n) {P : α → Prop}
    (hinj : ∀ x y, P x → P y → f x = f y → x = y) : ∀ {l l' : List α}, l.length = l'.length → (∀ x ∈ l, P x) →
      (∀ x ∈ l', P x) → l.flatMap f = l'.flatMap f → l = l'
  | [], [], _, _, _, _ => rfl
  | x :: l, y :: l', hl, hP, hP', h => by
    obtain ⟨hx, hrest⟩ := List.forall_mem_cons.mp hP
    obtain ⟨hy, hrest'⟩ := List.forall_mem_cons.mp hP'
    rw [List.flatMap_cons, List.flatMap_cons] at h
    obtain ⟨hhead, htail⟩ := List.append_inj h ((hlen x).trans (hlen y).symm)
    rw [hinj x y hx hy hhead, flatMap_inj hlen hinj (Nat.succ.inj hl) hrest hrest' htail]

theorem length_headerImage (h : Header) : (headerImage h).length = 8 := rfl

theorem length_entryImage (e : Entry) : (entryImage e).length = 16 := by
  obtain ⟨x, y, hxy⟩ : ∃ x y, listImage e.writeList = [x, y] := by cases e.writeList <;> exact ⟨_, _, rfl⟩
  obtain ⟨u, v, huv⟩ : ∃ u v, listImage e.readList = [u, v] := by cases e.readList <;> exact ⟨_, _, rfl⟩
  rw [entryImage, hxy, huv]
  rfl

theorem length_windowImage (w : Window) : (windowImage w).length = 4 := rfl

theorem length_flatMap_of_const {α β : Type} {f : α → List β} {n : Nat} (hlen : ∀ x, (f x).length = n) (l : List α) :
    (l.flatMap f).length = l.length * n := by
  simp [List.length_flatMap, hlen]

theorem length_entryImages (k : Bank) : (k.entries.toList.flatMap entryImage).length = 2048 := by
  rw [length_flatMap_of_const length_entryImage, Vector.length_toList]

theorem length_bankImage (k : Bank) : (bankImage k).length = 3080 := by
  simp only [bankImage, List.length_append, length_headerImage, length_entryImages,
    length_flatMap_of_const length_windowImage, Vector.length_toList]

theorem be16_inj {x y : Half} (h : be16 x = be16 y) : x = y := by
  rw [be16, be16, List.cons.injEq, List.cons.injEq] at h
  obtain ⟨hhi, hlo, -⟩ := h
  rw [← halfOf_be16 x, ← halfOf_be16 y, hhi, hlo]

theorem windowImage_inj {w v : Window} (h : windowImage w = windowImage v) : w = v := by
  obtain ⟨hl, hh⟩ := List.append_inj h rfl
  exact congrArg₂ Window.mk (be16_inj hl) (be16_inj hh)

theorem entryOfImage_of_mem {k : Bank} (hk : BankSafe k) : ∀ e ∈ k.entries.toList, entryOfImage (entryImage e) = some e := by
  intro e he
  obtain ⟨i, hi, rfl⟩ := List.mem_iff_getElem.mp he
  rw [Vector.length_toList] at hi
  exact hk.2.1 ⟨i, hi⟩

/-- The 3080 bytes of a bank that passes its field checks fix the bank (R2). -/
theorem bankImage_inj {k k' : Bank} (hk : BankSafe k) (hk' : BankSafe k') (h : bankImage k = bankImage k') : k = k' := by
  obtain ⟨hfront, hwindows⟩ := List.append_inj h (by
    rw [List.length_append, List.length_append, length_entryImages, length_entryImages]
    rfl)
  obtain ⟨hheader, hentries⟩ := List.append_inj hfront rfl
  have header_eq : k.header = k'.header := by
    have heq := hk.1
    rw [hheader, hk'.1] at heq
    exact (Option.some.inj heq).symm
  have entries_eq : k.entries = k'.entries := by
    refine Vector.toList_inj.mp (flatMap_inj (P := fun e => entryOfImage (entryImage e) = some e) length_entryImage
      (fun x y hx hy hxy => ?_) (by simp) (entryOfImage_of_mem hk) (entryOfImage_of_mem hk') hentries)
    rw [hxy, hy] at hx
    exact (Option.some.inj hx).symm
  have windows_eq : k.windows = k'.windows :=
    Vector.toList_inj.mp (flatMap_inj (P := fun _ => True) length_windowImage (fun _ _ _ _ => windowImage_inj) (by simp)
      (fun _ _ => trivial) (fun _ _ => trivial) hwindows)
  obtain ⟨_, _, _⟩ := k
  obtain ⟨_, _, _⟩ := k'
  rw [Bank.mk.injEq]
  exact ⟨header_eq, entries_eq, windows_eq⟩

/-- Settles O60: each kind of image decodes in both directions, and `bankImage_inj` cuts the image of a bank into its items. -/
theorem imagesDecode : Obligations.ImagesDecode :=
  ⟨fun _ _ h => (headerImage_of h).1, fun _ _ => entryImage_of, fun _ _ => flatMap_windowImage,
    fun _ _ => settingsImage_of, fun _ => headerOfImage_headerImage, fun _ => entryOfImage_entryImage,
    windowsOfImages_flatMap, fun _ => settingsOfBytes_settingsImage, length_bankImage, fun _ _ => bankImage_inj⟩

end Sys2Proof.Machine
end

section
/-!
PROOFS. Owners and waiters over every step, the beginning of a reset, and the events that open, go on with and end a session
(R24, R27, R42, R43, R48, R51, R97 to R100, R114, R183).
-/

namespace Sys2Proof.Machine

/-- Settles O13: `Seats` is kept by every command, and an idling step changes nothing. -/
theorem ownersAndWaitersAgree : Obligations.OwnersAndWaitersAgree := by
  intro s t ho hw h
  rcases step_cases h with ⟨-, rfl⟩ | ⟨c, rest, -, h⟩
  · exact ⟨ho, hw⟩
  · exact exec_seats c _ t h ⟨ho, hw⟩

/-! ## The beginning of a reset -/

theorem takeResetLow_inService {s : State} (h : s.phase = .inService) :
    takeResetLow s = beginReset .resetN (setPin .low s) := by
  unfold takeResetLow
  rw [h]

/-- A reset under way hears nothing but the level of the pin (R183). -/
theorem takeResetLow_inReset {s : State} (h : s.phase ≠ .inService) : takeResetLow s = setPin .low s := by
  unfold takeResetLow
  cases hp : s.phase with
  | inService => exact absurd hp h
  | resetN => rfl
  | powerOn _ => rfl

/-- Settles O5: each beginning of a reset is `beginReset`. -/
theorem resetBegins : Obligations.ResetBegins := by
  intro s
  exact ⟨fun h => congrArg Host.Outcome.next (takeResetLow_inService h),
    fun h => congrArg Host.Outcome.next (takeResetLow_inReset h), rfl⟩

end Sys2Proof.Machine
end

section
/-!
PROOFS. The equations of the operations that change one port's session, its line and its segment: how a hold begins and ends,
what a release and a give-up leave, what a refusal and a record leave. Later proofs use these and do not unfold the operations.
-/

namespace Sys2Proof.Machine

theorem PerPort.ext_get {α : Type} {t u : PerPort α} (h : ∀ p, t.get p = u.get p) : t = u := by
  cases t
  cases u
  exact congrArg₂ PerPort.mk (h .up0) (h .up1)

theorem PerSeg.ext_get {α : Type} {t u : PerSeg α} (h : ∀ g, t.get g = u.get g) : t = u := by
  cases t
  cases u
  exact (PerSeg.mk.injEq ..).mpr ⟨h .seg0, h .seg1, h .seg2, h .seg3⟩

/-- A port or the other. -/
theorem Port.forall_iff {P : Port → Prop} (p : Port) : (∀ q, P q) ↔ P p ∧ P p.other := by
  refine ⟨fun h => ⟨h p, h p.other⟩, fun ⟨h, h'⟩ q => ?_⟩
  cases p <;> cases q
  exacts [h, h', h', h]

/-! ## Ownership -/

/-- A session after its ownership of a segment, if it owned one, has ended (R40, R78). -/
def Session.unseated (e : Session) : Session :=
  if e.owned = none then e else { e with owned := none, pointer := none, remembered := none }

section

variable (e : Session)

@[simp] theorem Session.unseated_state : e.unseated.state = e.state := by unfold Session.unseated; split <;> rfl
@[simp] theorem Session.unseated_bank : e.unseated.bank = e.bank := by unfold Session.unseated; split <;> rfl
@[simp] theorem Session.unseated_part : e.unseated.part = e.part := by unfold Session.unseated; split <;> rfl
@[simp] theorem Session.unseated_stretch : e.unseated.stretch = e.stretch := by unfold Session.unseated; split <;> rfl
@[simp] theorem Session.unseated_wait : e.unseated.wait = e.wait := by unfold Session.unseated; split <;> rfl
@[simp] theorem Session.unseated_abandon : e.unseated.abandon = e.abandon := by unfold Session.unseated; split <;> rfl

@[simp] theorem Session.unseated_owned : e.unseated.owned = none := by
  unfold Session.unseated
  split
  · assumption
  · rfl

theorem Session.unseated_pointer : e.unseated.pointer = if e.owned = none then e.pointer else none := by
  unfold Session.unseated
  split <;> rfl

end

/-- The segments, with the one a port owns being released (R100). -/
def State.segReleased (s : State) (p : Port) : PerSeg Segment :=
  PerSeg.of fun g => if (s.session.get p).owned = some g then releasing (s.seg.get g) else s.seg.get g

/-- The segments, with the one a port owns being closed (R101). -/
def State.segGivenUp (s : State) (p : Port) : PerSeg Segment :=
  PerSeg.of fun g => if (s.session.get p).owned = some g then closing s.settings g (s.seg.get g) else s.seg.get g

@[simp] theorem State.get_segReleased (s : State) (p : Port) (g : SegId) :
    (s.segReleased p).get g = if (s.session.get p).owned = some g then releasing (s.seg.get g) else s.seg.get g :=
  PerSeg.get_of _ _

@[simp] theorem State.get_segGivenUp (s : State) (p : Port) (g : SegId) :
    (s.segGivenUp p).get g =
      if (s.session.get p).owned = some g then closing s.settings g (s.seg.get g) else s.seg.get g :=
  PerSeg.get_of _ _

theorem releaseSegment_of_none {p : Port} {s : State} (h : (s.session.get p).owned = none) : releaseSegment p s = s := by
  unfold releaseSegment
  rw [h]

theorem giveUpSegment_of_none {p : Port} {s : State} (h : (s.session.get p).owned = none) : giveUpSegment p s = s := by
  unfold giveUpSegment
  rw [h]

/-- A release ends the ownership of the port and drives the STOP on its segment (R100). -/
theorem releaseSegment_eq (p : Port) (s : State) :
    releaseSegment p s =
      { s with session := s.session.set p (s.session.get p).unseated, seg := s.segReleased p } := by
  cases ho : (s.session.get p).owned with
  | none =>
    rw [releaseSegment_of_none ho]
    ext1
    case session => simp [Session.unseated, ho]
    case seg => exact PerSeg.ext_get fun g => by simp [ho]
    all_goals rfl
  | some g =>
    unfold releaseSegment
    rw [ho]
    ext1
    case session => simp [loseOwnership, Session.unseated, ho]
    case seg =>
      refine PerSeg.ext_get fun h => ?_
      by_cases e : h = g
      · simp [loseOwnership, ho, e, releasing]
      · simp [loseOwnership, ho, e, Ne.symm e]
    all_goals rfl

/-- A give-up ends the ownership of the port and starts the close procedure of its segment (R101). -/
theorem giveUpSegment_eq (p : Port) (s : State) :
    giveUpSegment p s =
      { s with session := s.session.set p (s.session.get p).unseated, seg := s.segGivenUp p } := by
  cases ho : (s.session.get p).owned with
  | none =>
    rw [giveUpSegment_of_none ho]
    ext1
    case session => simp [Session.unseated, ho]
    case seg => exact PerSeg.ext_get fun g => by simp [ho]
    all_goals rfl
  | some g =>
    unfold giveUpSegment
    rw [ho]
    ext1
    case session => simp [startClose, loseOwnership, Session.unseated, ho]
    case seg =>
      refine PerSeg.ext_get fun h => ?_
      by_cases e : h = g
      · simp [startClose, loseOwnership, ho, e, closing]
      · simp [startClose, loseOwnership, ho, e, Ne.symm e]
    all_goals rfl

/-! ## Holds -/

theorem beginHold_eq (p : Port) (s : State) :
    beginHold p s =
      { s with
        upi := s.upi.set p { s.upi.get p with hold := true },
        session := s.session.set p { s.session.get p with stretch := some (s.limits p).stretch, abandon := none } } :=
  rfl

theorem releaseHold_of_held {p : Port} {s : State} (h : (s.upi.get p).hold = true) :
    releaseHold p s =
      { s with
        upi := s.upi.set p { s.upi.get p with hold := false },
        session := s.session.set p
          { s.session.get p with stretch := none, abandon := some (s.limits p).abandon } } :=
  if_pos h

theorem releaseHold_of_free {p : Port} {s : State} (h : (s.upi.get p).hold = false) : releaseHold p s = s :=
  if_neg (by simp [h])

theorem releaseWith_of_held {p : Port} {a : Ack} {s : State} (h : (s.upi.get p).hold = true) :
    releaseWith p a s =
      { s with
        upi := s.upi.set p { s.upi.get p with hold := false, ninth := some a },
        session := s.session.set p
          { s.session.get p with stretch := none, abandon := some (s.limits p).abandon } } := by
  unfold releaseWith
  rw [releaseHold_of_held (by simpa [driveNinth] using h)]
  ext1
  case upi => simp [driveNinth]
  all_goals rfl

theorem enterDiscard_eq (p : Port) (s : State) :
    enterDiscard p s =
      { s with
        session := s.session.set p
          { s.session.get p with state := .discard, wait := none, part := { s.part p with held := none } },
        upi := s.upi.set p
          { s.upi.get p with
            phase := answerPhase (s.part p).direction,
            shift := discardShift s.settings.filler (s.part p).direction } } :=
  rfl

/-- A session refused inside its hold, with its NACK given and nothing owned, is in DISCARD (R30, R44). -/
theorem discarding_of {p : Port} {t : State} (hstate : (t.session.get p).state = .discard)
    (howned : (t.session.get p).owned = none) (hwait : (t.session.get p).wait = none)
    (hstretch : (t.session.get p).stretch = none) (hheld : (t.part p).held = none)
    (hupi : t.upi.get p =
      { phase := answerPhase (t.part p).direction, hold := false,
        shift := discardShift t.settings.filler (t.part p).direction, ninth := some .nack }) :
    Discarding p t := by
  obtain ⟨hread, hwrite⟩ := discard_line (t.part p).direction t.settings.filler
  refine ⟨hstate, howned, hwait, hstretch, hheld, ?_, ?_, ?_, ?_⟩ <;> rw [hupi]
  · exact hread
  · exact hwrite

/-! ## Banks -/

/-- The Bank Controller after a session releases the bank it holds, if it holds one (R128, R141). -/
def bankReleased (c : BankController) (b : Option BankId) : BankController :=
  { c with
    holders :=
      match b with
      | none => c.holders
      | some k => c.holders.set k (c.holders.get k - 1),
    shadow :=
      if c.shadow = .draining ∧ b = some c.active.other ∧ c.holders.get c.active.other - 1 = 0 then .reloading
      else c.shadow }

theorem get_bankReleased_holders (c : BankController) (b : Option BankId) (k : BankId) :
    (bankReleased c b).holders.get k = if b = some k then c.holders.get k - 1 else c.holders.get k := by
  cases b with
  | none => rfl
  | some l =>
    by_cases e : k = l
    · simp [bankReleased, e]
    · simp [bankReleased, e, Ne.symm e]

theorem releaseBank_eq (p : Port) (s : State) :
    releaseBank p s =
      { s with
        session := s.session.set p { s.session.get p with bank := none },
        bc := bankReleased s.bc (s.session.get p).bank } := by
  unfold releaseBank
  cases hb : (s.session.get p).bank with
  | none =>
    ext1
    case session =>
      have e : ({ s.session.get p with bank := none } : Session) = s.session.get p := by
        rw [← hb]
      simp [e]
    case bc => simp [bankReleased]
    all_goals rfl
  | some k =>
    ext1
    case bc =>
      have e : ∀ l, (k = l ∧ s.bc.holders.get k - 1 = 0) ↔ (some k = some l ∧ s.bc.holders.get l - 1 = 0) := by
        intro l
        constructor
        · rintro ⟨rfl, h⟩
          exact ⟨rfl, h⟩
        · rintro ⟨h, h'⟩
          cases h
          exact ⟨rfl, h'⟩
      simp only [State.updBc_bc, State.updSession_bc, bankReleased, e]
    all_goals rfl

end Sys2Proof.Machine
end

section
/-!
PROOFS. The events that open, go on with and end a session, where no frame ends with it (R24, R27, R42, R43, R48).
-/

namespace Sys2Proof.Machine

/-- A line that drives nothing answers as after a STOP (R27). -/
theorem endPartFrame_of_noFrame {p : Port} {s : State}
    (h : ¬((s.session.get p).state = .mgmt ∧ (s.part p).direction = .write)) : endPartFrame p s = s := if_neg h

theorem takeRestart_of_free {p : Port} {s : State} (h : s.free p = true) : takeRestart p s = restartPart p s := if_pos h

theorem State.not_idle_of_free {s : State} {p : Port} (h : s.free p = true) : (s.session.get p).state ≠ .idle := by
  intro e
  simp [State.free, e, SessionState.open] at h

theorem State.hold_of_free {s : State} {p : Port} (h : s.free p = true) : (s.upi.get p).hold = false := by
  simp only [State.free, Bool.and_eq_true, Bool.not_eq_true'] at h
  exact h.2

/-- Settles O18. -/
theorem startOpensSession : Obligations.StartOpensSession := by
  intro p s hp hi
  show Host.Outcome.next (inService (takeStart p) s) = _
  rw [inService_eq _ hp]
  exact congrArg Host.Outcome.next (if_pos hi)

/-- Settles O21. -/
theorem clockEdgeRestartsAbandon : Obligations.ClockEdgeRestartsAbandon := by
  intro p e s hp
  have hexec : exec (.upstreamSclEdge p e) s = .next (restartAbandon p s) :=
    congrArg Host.Outcome.next (inService_eq _ hp)
  refine ⟨fun h => hexec.trans (congrArg Host.Outcome.next (if_pos h)),
    fun h => hexec.trans (congrArg Host.Outcome.next (if_neg (by simp [h])))⟩

/-- Settles O19: both commands are `restartPart`, and no frame ends with the part. -/
theorem repeatedStartKeepsSession : Obligations.RepeatedStartKeepsSession := by
  intro p s hp
  have hrestart : exec (.repeatedStart p) s = .next (takeRestart p s) := congrArg Host.Outcome.next (inService_eq _ hp)
  have hstart : exec (.start p) s = .next (takeStart p s) := congrArg Host.Outcome.next (inService_eq _ hp)
  refine ⟨fun hi => ?_, fun hf hm => ?_⟩
  · rw [hrestart, hstart]
    exact congrArg Host.Outcome.next (if_neg hi)
  · rw [hrestart, takeRestart_of_free hf, restartPart, endPartFrame_of_noFrame hm]
    rfl

/-! ## The end of a session -/

/-- The state with the session of a port closed: in IDLE, driving nothing, its bank released. -/
def State.closed (s : State) (p : Port) : State :=
  { s with
    session := s.session.set p idleSession, upi := s.upi.set p quietUpi, readback := s.readback.set p [],
    bc := bankReleased s.bc (s.session.get p).bank }

theorem closeRecord_releaseBank (p : Port) (s : State) : closeRecord p (releaseBank p s) = s.closed p := by
  rw [releaseBank_eq]
  ext1
  case session => simp [closeRecord, State.closed]
  all_goals rfl

theorem State.closed_keepsPort (s : State) (p : Port) : KeepsPort p.other s (s.closed p) := by
  simp [KeepsPort, State.closed]

/-- A STOP that ends no frame (R42). -/
theorem stopSession_eq {p : Port} {s : State} (hm : ¬((s.session.get p).state = .mgmt ∧ (s.part p).direction = .write)) :
    stopSession p s = { s.closed p with seg := s.segReleased p } := by
  unfold stopSession
  rw [closeRecord_releaseBank, releaseSegment_eq, endPartFrame_of_noFrame (by simpa [State.part] using hm)]
  ext1
  case session => simp [State.closed]
  case bc => simp [State.closed]
  all_goals rfl

/-- Settles O20. -/
theorem stopEndsSession : Obligations.StopEndsSession := by
  intro p s hp
  have hexec : exec (.stop p) s = .next (takeStop p s) := congrArg Host.Outcome.next (inService_eq _ hp)
  refine ⟨fun hf => hexec.trans (congrArg Host.Outcome.next (if_neg (by simp [hf]))), fun hf hm => ?_⟩
  refine ⟨_, hexec.trans (congrArg Host.Outcome.next ((if_pos hf).trans (stopSession_eq hm))), ?_⟩
  have hsession : (({ s.closed p with seg := s.segReleased p } : State).session.get p) = idleSession := by
    simp [State.closed]
  have hupi : (({ s.closed p with seg := s.segReleased p } : State).upi.get p) = quietUpi := by
    simp [State.closed]
  unfold State.part
  rw [hsession, hupi]
  exact ⟨rfl, rfl, rfl, rfl, rfl, rfl, rfl, rfl, fun g => s.get_segReleased p g, rfl,
    fun k => get_bankReleased_holders _ _ k, rfl, rfl, rfl, rfl, rfl, ⟨rfl, rfl, rfl, rfl⟩, ⟨rfl, rfl, rfl⟩,
    s.closed_keepsPort p, rfl, rfl, rfl, rfl, rfl, rfl⟩

/-! ## Abandonment -/

/-- The Violation Queue after the record of an abandonment: a judged part outside MGMT, DISCARD and FILL makes one (R48). -/
def State.abandonedQueue (s : State) (p : Port) : ViolationQueue :=
  if (s.session.get p).state ∈ [SessionState.address, .write, .read] ∧ (s.part p).decision.isSome = true then
    s.queueWith p .abandoned .cut none
  else s.queue

theorem State.open_of_free {s : State} {p : Port} (h : s.free p = true) : (s.session.get p).state.open = true := by
  simp only [State.free, Bool.and_eq_true] at h
  exact h.1

theorem abandonedQueue_congr {p : Port} {s t : State} (hstate : (t.session.get p).state = (s.session.get p).state)
    (hpart : t.part p = s.part p) (hqueue : t.queue = s.queue) (hjudged : t.judged p = s.judged p) :
    t.abandonedQueue p = s.abandonedQueue p := by
  unfold State.abandonedQueue
  rw [hstate, hpart, hqueue, queueWith_congr _ _ _ _ s t hpart hqueue hjudged]

theorem recordAbandoned_eq {p : Port} {s : State} (h : (s.session.get p).state.open = true) :
    ∃ f a x, recordAbandoned p s =
      { s with
        queue := s.abandonedQueue p, flags := f, alert := a,
        session := s.session.set p { s.session.get p with part := { s.part p with recorded := x } } } := by
  have hnone : ∃ f a x, s =
      { s with
        queue := s.queue, flags := f, alert := a,
        session := s.session.set p { s.session.get p with part := { s.part p with recorded := x } } } :=
    ⟨s.flags, s.alert, (s.part p).recorded,
      (congrArg (fun x => { s with session := x }) (PerPort.set_get s.session p)).symm⟩
  obtain ⟨f, a, hmade⟩ := makeRecord_eq p .abandoned .cut none s
  have hsome : ∃ f a x, (if (s.part p).decision.isSome then makeRecord p .abandoned .cut none s else s) =
      { s with
        queue := if (s.part p).decision.isSome = true then s.queueWith p .abandoned .cut none else s.queue, flags := f,
        alert := a, session := s.session.set p { s.session.get p with part := { s.part p with recorded := x } } } := by
    split
    · exact ⟨f, a, true, hmade⟩
    · exact hnone
  unfold recordAbandoned State.abandonedQueue
  cases he : (s.session.get p).state <;> rw [he] at h
  case idle | grantWait | connect => cases h
  case mgmt | discard | fill => simpa using hnone
  case address | write | read => simpa using hsome

/-- An abandonment that ends no frame (R48). -/
theorem abandonSession_eq {p : Port} {s : State} (hf : s.free p = true)
    (hm : ¬((s.session.get p).state = .mgmt ∧ (s.part p).direction = .write)) :
    ∃ f a, abandonSession p s =
      { s.closed p with
        seg := s.segGivenUp p, queue := s.abandonedQueue p, flags := f, alert := a,
        portCounters := s.portCounters.set p
          { s.portCounters.get p with abandoned := satInc (s.portCounters.get p).abandoned } } := by
  obtain ⟨f, a, x, hrec⟩ := recordAbandoned_eq (p := p) (s := giveUpSegment p s) (by
    rw [giveUpSegment_eq]
    simpa using State.open_of_free hf)
  have hqueue : (giveUpSegment p s).abandonedQueue p = s.abandonedQueue p := by
    rw [giveUpSegment_eq]
    exact abandonedQueue_congr (by simp) (by simp [State.part]) rfl (by simp [State.judged, State.judgedId])
  rw [hqueue, giveUpSegment_eq] at hrec
  refine ⟨f, a, ?_⟩
  unfold abandonSession
  rw [closeRecord_releaseBank, giveUpSegment_eq, hrec, endPartFrame_of_noFrame (by
    simpa [State.part, countAbandoned] using hm)]
  ext1
  case session => simp [State.closed, countAbandoned]
  case bc => simp [State.closed, countAbandoned]
  all_goals rfl

/-- Settles O43. -/
theorem abandonTimerEndsSession : Obligations.AbandonTimerEndsSession := by
  intro p s hp
  have hexec : exec (.abandonTimerExpiry p) s = .next (takeAbandonExpiry p s) :=
    congrArg Host.Outcome.next (inService_eq _ hp)
  refine ⟨fun h => hexec.trans (congrArg Host.Outcome.next (if_neg ?_)), fun hf ha hm => ?_⟩
  · rintro ⟨hf, ha⟩
    rcases h with h | h
    · simp [hf] at h
    · simp [h] at ha
  · obtain ⟨f, a, h⟩ := abandonSession_eq hf hm
    refine ⟨_, hexec.trans (congrArg Host.Outcome.next ((if_pos ⟨hf, ha⟩).trans h)), ?_⟩
    exact ⟨by cases p <;> rfl, by cases p <;> rfl, fun g => s.get_segGivenUp p g, rfl, rfl, rfl,
      fun k => get_bankReleased_holders _ _ k, rfl, rfl, rfl, rfl, rfl, s.closed_keepsPort p, rfl, rfl, rfl, rfl, rfl,
      rfl⟩

end Sys2Proof.Machine
end

section
/-!
PROOFS. The state in which an address is judged: a part of the port inside its hold, with the bank it is judged by; and what each
step of the judgement does to it (R52, R58 to R64, R119).
-/

namespace Sys2Proof.Machine

/-! ## Accounts -/

/-- The accounts with the account of one entry of one bank changed. -/
def accountsWith (t : PerBank (Vector EntryAccount 128)) (k : BankId) (i : EntryIdx) (f : EntryAccount → EntryAccount) :
    PerBank (Vector EntryAccount 128) :=
  t.set k (tableSet (t.get k) i (f (tableGet (t.get k) i)))

theorem tableGet_accountsWith (t : PerBank (Vector EntryAccount 128)) (k l : BankId) (i j : EntryIdx)
    (f : EntryAccount → EntryAccount) :
    tableGet ((accountsWith t k i f).get l) j =
      if l = k ∧ j = i then f (tableGet (t.get l) j) else tableGet (t.get l) j := by
  unfold accountsWith
  by_cases hl : l = k
  · by_cases hj : j = i
    · simp [hl, hj]
    · simp [hl, hj]
  · simp [hl]

theorem tableSet_tableSet {α : Type} {n : Nat} (v : Vector α n) (i : Fin n) (x y : α) :
    tableSet (tableSet v i x) i y = tableSet v i y := Vector.set_set ..

theorem accountsWith_accountsWith (t : PerBank (Vector EntryAccount 128)) (k : BankId) (i : EntryIdx)
    (f f' : EntryAccount → EntryAccount) :
    accountsWith (accountsWith t k i f) k i f' = accountsWith t k i (f' ∘ f) := by
  simp [accountsWith, tableSet_tableSet]

theorem accountsWith_id (t : PerBank (Vector EntryAccount 128)) (k : BankId) (i : EntryIdx) :
    accountsWith t k i id = t := by
  simp [accountsWith, tableSet, tableGet]

/-- An account after violations are counted (R64, R121). -/
def EntryAccount.violated (n : Nat) (a : EntryAccount) : EntryAccount :=
  { a with violations := satInc^[n] a.violations }

theorem EntryAccount.violated_add (m n : Nat) : violated m ∘ violated n = violated (m + n) := by
  funext a
  simp [EntryAccount.violated, Function.iterate_add]

/-! ## The state of a judgement -/

/-- What a judgement has made of the parts of state it works on. -/
structure Judgement where
  bank : Option BankId
  holders : PerBank Nat
  part : Part
  accounts : PerBank (Vector EntryAccount 128)
  queue : ViolationQueue
  flags : PerPort AlertFlags
  alert : PerPort Level

/-- The state in which a judgement of the port stands, inside the hold of its address byte (R29, R38). -/
def State.under (s : State) (p : Port) (j : Judgement) : State :=
  { s with
    session := s.session.set p
      { s.session.get p with
        bank := j.bank, part := j.part, stretch := some (s.limits p).stretch, abandon := none },
    upi := s.upi.set p { s.upi.get p with hold := true }, bc := { s.bc with holders := j.holders },
    accounts := j.accounts, queue := j.queue, flags := j.flags, alert := j.alert }

/-- A judgement that has begun: nothing counted and nothing recorded. -/
def State.judgement (s : State) (k : Option BankId) (n : PerBank Nat) (t : Part) : Judgement :=
  { bank := k, holders := n, part := t, accounts := s.accounts, queue := s.queue, flags := s.flags, alert := s.alert }

/-- The part of an address that is complete and not yet judged (R26, R52). -/
def newPart (kind : AddrKind) (d : Direction) (a : Addr) : Part :=
  { noPart with direction := d, kind := kind, address := a }

@[simp] theorem newPart_kind (kind : AddrKind) (d : Direction) (a : Addr) : (newPart kind d a).kind = kind := rfl
@[simp] theorem newPart_direction (kind : AddrKind) (d : Direction) (a : Addr) : (newPart kind d a).direction = d := rfl
@[simp] theorem newPart_address (kind : AddrKind) (d : Direction) (a : Addr) : (newPart kind d a).address = a := rfl

@[simp] theorem State.judgement_part (s : State) (k : Option BankId) (n : PerBank Nat) (t : Part) :
    (s.judgement k n t).part = t := rfl

/-- A part with its decision, segment and target address (R66). -/
def Part.decided (t : Part) (c : Decision) (g : SegId) (x : Addr) : Part :=
  { t with decision := some c, segment := some g, target := x }

section

variable (s : State) (p : Port) (j : Judgement)

theorem State.under_session :
    (s.under p j).session.get p =
      { s.session.get p with
        bank := j.bank, part := j.part, stretch := some (s.limits p).stretch, abandon := none } := by
  simp [State.under]

theorem State.under_upi : (s.under p j).upi.get p = { s.upi.get p with hold := true } := by simp [State.under]

@[simp] theorem State.under_part : (s.under p j).part p = j.part := by simp [State.part, State.under_session]

@[simp] theorem State.under_judgedId : (s.under p j).judgedId p = j.bank.getD s.bc.active := by
  simp [State.judgedId, State.under]

@[simp] theorem State.under_judged : (s.under p j).judged p = s.bank.get (j.bank.getD s.bc.active) := by
  rw [State.judged, State.under_judgedId]
  rfl

@[simp] theorem State.under_pointerFor (i : EntryIdx) : (s.under p j).pointerFor p i = s.pointerFor p i := by
  simp [State.pointerFor, State.under_session]

theorem State.under_updPart (f : Part → Part) :
    (s.under p j).updPart p f = s.under p { j with part := f j.part } := by
  ext1
  case session => simp [State.updPart, State.under]
  all_goals rfl

theorem State.under_updAccount (k : BankId) (i : EntryIdx) (f : EntryAccount → EntryAccount) :
    (s.under p j).updAccount k i f = s.under p { j with accounts := accountsWith j.accounts k i f } := rfl

/-- The record a judged part makes (R26, R65). -/
def State.judgeRecord (r : Reason) (o : RecordOutcome) (x : Option Half) : Violation :=
  (s.under p j).violationOf p r o x

/-- The Violation Queue after a record of a judged part, unless it has made one (R26). -/
def State.judgeQueue (r : Reason) (o : RecordOutcome) (x : Option Half) : ViolationQueue :=
  if j.part.recorded = true then j.queue else queueAfter j.queue (s.judgeRecord p j r o x)

theorem State.under_queueWith (r : Reason) (o : RecordOutcome) (x : Option Half) :
    (s.under p j).queueWith p r o x = s.judgeQueue p j r o x := by
  unfold State.queueWith State.judgeQueue
  rw [State.under_part]
  rfl

theorem State.under_makeRecord (r : Reason) (o : RecordOutcome) (x : Option Half) :
    ∃ f a, makeRecord p r o x (s.under p j) =
      s.under p
        { j with
          queue := s.judgeQueue p j r o x, flags := f, alert := a, part := { j.part with recorded := true } } := by
  obtain ⟨f, a, h⟩ := makeRecord_eq p r o x (s.under p j)
  refine ⟨f, a, ?_⟩
  rw [h, State.under_queueWith]
  ext1
  case session => simp [State.under, State.part]
  all_goals rfl

end

/-! ## Violations of an entry -/

section

variable {s : State} {p : Port} {j : Judgement} {i : EntryIdx} {e : Entry} {k : BankId}

/-- A violation of a REFUSE entry is counted and refuses (R64). -/
theorem addressViolation_refuses (ha : e.action = .refuse) (hk : j.bank.getD s.bc.active = k) (r : Reason)
    (x : Option Half) :
    addressViolation p i e r x (s.under p j) =
      (s.under p { j with accounts := accountsWith j.accounts k i (.violated 1) }, some (r, x)) := by
  unfold addressViolation countViolation
  rw [ha, State.under_judgedId, hk]
  rfl

/-- What the violations of a LOG_ONLY entry leave of a judgement: each is counted, and the first makes the record, unless the part
has made one (R64, R93). -/
structure Logged (s : State) (p : Port) (k : BankId) (i : EntryIdx) (xs : List (Reason × Option Half))
    (j j' : Judgement) : Prop where
  bank : j'.bank = j.bank
  holders : j'.holders = j.holders
  part : j'.part = { j.part with recorded := j.part.recorded || !xs.isEmpty }
  accounts : j'.accounts = accountsWith j.accounts k i (.violated xs.length)
  queue : j'.queue =
    match xs with
    | [] => j.queue
    | (r, x) :: _ => s.judgeQueue p j r .passed x
  unrecorded : xs = [] → j'.flags = j.flags ∧ j'.alert = j.alert

theorem Logged.nil (s : State) (p : Port) (k : BankId) (i : EntryIdx) (j : Judgement) : Logged s p k i [] j j where
  bank := rfl
  holders := rfl
  part := by simp
  accounts := (accountsWith_id j.accounts k i).symm
  queue := rfl
  unrecorded _ := ⟨rfl, rfl⟩

theorem Logged.append {xs ys : List (Reason × Option Half)} {j j' j'' : Judgement} (h : Logged s p k i xs j j')
    (h' : Logged s p k i ys j' j'') : Logged s p k i (xs ++ ys) j j'' where
  bank := h'.bank.trans h.bank
  holders := h'.holders.trans h.holders
  part := by rw [h'.part, h.part]; cases xs <;> simp
  accounts := by
    rw [h'.accounts, h.accounts, accountsWith_accountsWith, EntryAccount.violated_add, List.length_append, Nat.add_comm]
  queue := by
    have hq := h.queue
    cases xs with
    | nil =>
      cases ys with
      | nil => exact h'.queue.trans hq
      | cons y ys =>
        have hpart : j'.part = j.part := by simpa using h.part
        rw [h'.queue]
        show s.judgeQueue p j' _ _ _ = s.judgeQueue p j _ _ _
        simp [State.judgeQueue, State.judgeRecord, State.violationOf, hpart, hq, h.bank]
    | cons x xs =>
      have hrec : j'.part.recorded = true := by simp [h.part]
      have hkeep : j''.queue = j'.queue := by
        rw [h'.queue]
        cases ys with
        | nil => rfl
        | cons y ys => simp [State.judgeQueue, hrec]
      exact hkeep.trans hq
  unrecorded hn := by
    obtain ⟨hx, hy⟩ := List.append_eq_nil_iff.mp hn
    obtain ⟨hf, ha⟩ := h.unrecorded hx
    obtain ⟨hf', ha'⟩ := h'.unrecorded hy
    exact ⟨hf'.trans hf, ha'.trans ha⟩

/-- A violation of a LOG_ONLY entry is counted and recorded PASSED, and the judgement goes on (R64). -/
theorem addressViolation_logs (ha : e.action = .logOnly) (hk : j.bank.getD s.bc.active = k) (r : Reason)
    (x : Option Half) :
    ∃ j', addressViolation p i e r x (s.under p j) = (s.under p j', none) ∧ Logged s p k i [(r, x)] j j' := by
  let counted : Judgement := { j with accounts := accountsWith j.accounts k i (.violated 1) }
  obtain ⟨f, a, h⟩ := State.under_makeRecord s p counted r .passed x
  refine ⟨{ counted with
      queue := s.judgeQueue p counted r .passed x, flags := f, alert := a, part := { j.part with recorded := true } },
    ?_, rfl, rfl, by simp, rfl, ?_, nofun⟩
  · unfold addressViolation countViolation
    rw [ha, State.under_judgedId, hk]
    exact congrArg (·, none) h
  · simp [State.judgeQueue, State.judgeRecord, State.violationOf, counted]

end

end Sys2Proof.Machine
end

section
/-!
PROOFS. The judgement of an address by its entry: the faults it finds, one per step, and what they leave under REFUSE and under
LOG_ONLY (R59, R61 to R64, R119).
-/

namespace Sys2Proof.Machine

/-! ## The faults of the steps -/

/-- The fault of step 5 or 6 (R59, R61). -/
def Entry.accessFault (e : Entry) (p : Port) (d : Direction) : Option (Reason × Option Half) :=
  if e.access.get p = .none then some (.portDenied, none)
  else if (e.access.get p).allows d = true then none else some (.direction, none)

/-- The fault of step 7 (R62). -/
def Entry.readFault (e : Entry) (k : Bank) (d : Direction) (pointer : Option Half) : Option (Reason × Option Half) :=
  match d, e.readList, pointer with
  | .read, some _, none => some (.noPointer, none)
  | .read, some l, some o => if e.mode = .atStart ∧ inList k l o = false then some (.readWindow, some o) else none
  | _, _, _ => none

/-- The fault of step 8 (R63). -/
def Entry.creditFault (e : Entry) (bucket : Option Nat) : Option (Reason × Option Half) :=
  match e.creditLimit, bucket with
  | some _, some 0 => some (.noCredit, none)
  | some _, none => some (.noCredit, none)
  | _, _ => none

theorem State.addressFaults_eq (s : State) (p : Port) (d : Direction) (i : EntryIdx) :
    s.addressFaults p d i =
      ((tableGet (s.bank.get (s.judgingId p)).entries i).accessFault p d).toList ++
        ((tableGet (s.bank.get (s.judgingId p)).entries i).readFault (s.bank.get (s.judgingId p)) d
          (s.pointerFor p i)).toList ++
        ((tableGet (s.bank.get (s.judgingId p)).entries i).creditFault
          (tableGet (s.accounts.get (s.judgingId p)) i).bucket).toList := by
  unfold State.addressFaults Entry.accessFault Entry.readFault Entry.creditFault
  refine congrArg₂ (· ++ ·) (congrArg₂ (· ++ ·) ?_ ?_) ?_
  · split
    · rfl
    · split <;> rfl
  · cases d with
    | write => rfl
    | read =>
      cases (tableGet (s.bank.get (s.judgingId p)).entries i).readList with
      | none => rfl
      | some l =>
        cases s.pointerFor p i with
        | none => rfl
        | some o =>
          dsimp only
          split <;> rfl
  · cases (tableGet (s.bank.get (s.judgingId p)).entries i).creditLimit with
    | none => rfl
    | some l =>
      cases (tableGet (s.accounts.get (s.judgingId p)) i).bucket with
      | none => rfl
      | some n => cases n <;> rfl

/-- A step that finds at most one fault. -/
def faultStep (p : Port) (i : EntryIdx) (e : Entry) (x : Option (Reason × Option Half)) (s : State) : Judged :=
  match x with
  | none => (s, none)
  | some (r, o) => addressViolation p i e r o s

theorem accessStep_eq (p : Port) (i : EntryIdx) (e : Entry) (claim : Bool) (s : State)
    (hc : claim = true ↔ e.access.get p = .none) :
    accessStep p i e claim s = faultStep p i e (e.accessFault p (s.part p).direction) s := by
  unfold accessStep Entry.accessFault
  by_cases hn : e.access.get p = .none
  · rw [if_pos (hc.mpr hn), if_pos hn]
    rfl
  · rw [if_neg (mt hc.mp hn), if_neg hn]
    split <;> rfl

theorem readListStep_eq (p : Port) (i : EntryIdx) (e : Entry) (s : State) :
    readListStep p i e s =
      faultStep p i e (e.readFault (s.judged p) (s.part p).direction (s.pointerFor p i)) s := by
  unfold readListStep Entry.readFault
  cases hd : (s.part p).direction with
  | write => rfl
  | read =>
    cases hl : e.readList with
    | none => rfl
    | some l =>
      cases ho : s.pointerFor p i with
      | none => rfl
      | some o =>
        dsimp only
        split <;> rfl

theorem creditStep_of_fault {p : Port} {i : EntryIdx} {e : Entry} {s : State} {x : Reason × Option Half}
    (hx : e.creditFault (tableGet (s.accounts.get (s.judgedId p)) i).bucket = some x) :
    creditStep p i e s = faultStep p i e (some x) s := by
  unfold Entry.creditFault at hx
  unfold creditStep
  split at hx
  · rename_i l hl hb
    cases hx
    rw [hl, hb]
    rfl
  · rename_i l hl hb
    cases hx
    rw [hl, hb]
    rfl
  · cases hx

/-- An account whose entry was found to have violations, with a credit taken if there is one (R63, R64, R119). -/
def EntryAccount.charged (limit : Option Byte) (n : Nat) (a : EntryAccount) : EntryAccount :=
  { a with
    violations := satInc^[n] a.violations,
    bucket := if limit.isSome then a.bucket.map (· - 1) else a.bucket }

/-- A bucket that is no fault loses a credit (R119). -/
theorem creditStep_of_pass {p : Port} {i : EntryIdx} {e : Entry} {s : State}
    (hx : e.creditFault (tableGet (s.accounts.get (s.judgedId p)) i).bucket = none) :
    creditStep p i e s = (s.updAccount (s.judgedId p) i (.charged e.creditLimit 0), none) := by
  unfold creditStep
  cases hl : e.creditLimit with
  | none => exact congrArg (·, none) (congrArg (fun t => { s with accounts := t }) (accountsWith_id ..)).symm
  | some l =>
    simp only [Entry.creditFault, hl] at hx
    cases hb : (tableGet (s.accounts.get (s.judgedId p)) i).bucket with
    | none => simp [hb] at hx
    | some n =>
      cases n with
      | zero => simp [hb] at hx
      | succ n =>
        unfold State.updAccount EntryAccount.charged
        rw [hb]
        rfl

/-! ## One fault -/

section

variable {s : State} {p : Port} {j : Judgement} {i : EntryIdx} {e : Entry} {k : BankId}

theorem faultStep_logs (ha : e.action = .logOnly) (hk : j.bank.getD s.bc.active = k) (x : Option (Reason × Option Half)) :
    ∃ j', faultStep p i e x (s.under p j) = (s.under p j', none) ∧ Logged s p k i x.toList j j' := by
  cases x with
  | none => exact ⟨j, rfl, .nil s p k i j⟩
  | some x => exact addressViolation_logs ha hk x.1 x.2

theorem Logged.bucket {xs : List (Reason × Option Half)} {j' : Judgement} (h : Logged s p k i xs j j') :
    (tableGet (j'.accounts.get k) i).bucket = (tableGet (j.accounts.get k) i).bucket := by
  rw [h.accounts, tableGet_accountsWith, if_pos ⟨rfl, rfl⟩]
  rfl

theorem Logged.direction {xs : List (Reason × Option Half)} {j' : Judgement} (h : Logged s p k i xs j j') :
    j'.part.direction = j.part.direction := by
  rw [h.part]

end

/-! ## The judgement by an entry -/

section

variable {s : State} {p : Port} {i : EntryIdx} {claim : Bool} {b : Option BankId} {n : PerBank Nat} {t : Part}

/-- A judgement that an entry decides (R66). -/
def State.decidedBy (s : State) (p : Port) (i : EntryIdx) (b : Option BankId) (n : PerBank Nat) (t : Part) : Judgement :=
  s.judgement b n
    (t.decided (.entry i) (tableGet (s.bank.get (s.judgingId p)).entries i).segment
      ((tableGet (s.bank.get (s.judgingId p)).entries i).target.getD
        (tableGet (s.bank.get (s.judgingId p)).entries i).matchAddr))

variable (hb : b.getD s.bc.active = s.judgingId p)
  (hc : claim = true ↔ (tableGet (s.bank.get (s.judgingId p)).entries i).access.get p = .none)
include hb hc

/-- The steps of a judgement by an entry, by their faults. -/
theorem judgeEntry_eq :
    judgeEntry p i claim (s.under p (s.judgement b n t)) =
      andThen
        (andThen
          (faultStep p i (tableGet (s.bank.get (s.judgingId p)).entries i)
            ((tableGet (s.bank.get (s.judgingId p)).entries i).accessFault p t.direction)
            (s.under p (s.decidedBy p i b n t)))
          (readListStep p i (tableGet (s.bank.get (s.judgingId p)).entries i)))
        (creditStep p i (tableGet (s.bank.get (s.judgingId p)).entries i)) := by
  have hdecided : ∀ g x, setDecision p (.entry i) g x (s.under p (s.judgement b n t)) =
      s.under p (s.judgement b n (t.decided (.entry i) g x)) := fun g x => State.under_updPart s p _ _
  unfold judgeEntry
  simp only [State.under_judged, hdecided]
  have hbank : ((s.judgement b n t).bank.getD s.bc.active) = s.judgingId p := hb
  rw [hbank, accessStep_eq _ _ _ _ _ hc, State.under_part]
  rfl

/-- An entry without a fault passes the address and takes a credit (R63). -/
theorem judgeEntry_passes (hx : s.addressFaults p t.direction i = []) :
    judgeEntry p i claim (s.under p (s.judgement b n t)) =
      (s.under p
        { s.decidedBy p i b n t with
          accounts := accountsWith s.accounts (s.judgingId p) i
            (.charged (tableGet (s.bank.get (s.judgingId p)).entries i).creditLimit 0) }, none) := by
  rw [State.addressFaults_eq, List.append_eq_nil_iff, List.append_eq_nil_iff] at hx
  simp only [Option.toList_eq_nil_iff] at hx
  obtain ⟨⟨haccess, hread⟩, hcredit⟩ := hx
  rw [judgeEntry_eq hb hc, haccess]
  show andThen (readListStep p i _ (s.under p (s.decidedBy p i b n t))) _ = _
  have hbank : (s.decidedBy p i b n t).bank.getD s.bc.active = s.judgingId p := hb
  rw [readListStep_eq, State.under_judged, hbank, State.under_part, State.under_pointerFor]
  have hread' : (tableGet (s.bank.get (s.judgingId p)).entries i).readFault (s.bank.get (s.judgingId p))
      (s.decidedBy p i b n t).part.direction (s.pointerFor p i) = none := hread
  rw [hread']
  show creditStep p i _ (s.under p (s.decidedBy p i b n t)) = _
  rw [creditStep_of_pass (by rw [State.under_judgedId, hbank]; exact hcredit), State.under_judgedId, hbank]
  rfl

/-- The first fault of a REFUSE entry refuses the address (R64). -/
theorem judgeEntry_refuses (ha : (tableGet (s.bank.get (s.judgingId p)).entries i).action = .refuse) {r : Reason}
    {x : Option Half} (hx : (s.addressFaults p t.direction i).head? = some (r, x)) :
    judgeEntry p i claim (s.under p (s.judgement b n t)) =
      (s.under p
        { s.decidedBy p i b n t with
          accounts := accountsWith s.accounts (s.judgingId p) i (.violated 1) }, some (r, x)) := by
  have hbank : (s.decidedBy p i b n t).bank.getD s.bc.active = s.judgingId p := hb
  have hviolation := addressViolation_refuses (p := p) (i := i) ha hbank r x
  rw [State.addressFaults_eq] at hx
  rw [judgeEntry_eq hb hc]
  cases haccess : (tableGet (s.bank.get (s.judgingId p)).entries i).accessFault p t.direction with
  | some y =>
    rw [haccess] at hx
    obtain rfl : y = (r, x) := by simpa using hx
    show andThen (andThen (addressViolation p i _ r x (s.under p (s.decidedBy p i b n t))) _) _ = _
    rw [hviolation]
    rfl
  | none =>
    rw [haccess] at hx
    show andThen (readListStep p i _ (s.under p (s.decidedBy p i b n t))) _ = _
    rw [readListStep_eq, State.under_judged, hbank, State.under_part, State.under_pointerFor]
    show andThen (faultStep p i _ ((tableGet (s.bank.get (s.judgingId p)).entries i).readFault
      (s.bank.get (s.judgingId p)) t.direction (s.pointerFor p i)) _) _ = _
    cases hread : (tableGet (s.bank.get (s.judgingId p)).entries i).readFault (s.bank.get (s.judgingId p))
        t.direction (s.pointerFor p i) with
    | some y =>
      rw [hread] at hx
      obtain rfl : y = (r, x) := by simpa using hx
      show andThen (addressViolation p i _ r x (s.under p (s.decidedBy p i b n t))) _ = _
      rw [hviolation]
      rfl
    | none =>
      rw [hread] at hx
      have hcredit : (tableGet (s.bank.get (s.judgingId p)).entries i).creditFault
          (tableGet (s.accounts.get (s.judgingId p)) i).bucket = some (r, x) := by
        simpa [Option.head?_toList] using hx
      show creditStep p i _ (s.under p (s.decidedBy p i b n t)) = _
      rw [creditStep_of_fault (by rw [State.under_judgedId, hbank]; exact hcredit)]
      exact hviolation

/-- A LOG_ONLY entry passes the address: its faults are counted, the first is recorded, and a credit is taken if there is one
(R63, R64). -/
theorem judgeEntry_logs (ha : (tableGet (s.bank.get (s.judgingId p)).entries i).action = .logOnly) :
    ∃ j, Logged s p (s.judgingId p) i (s.addressFaults p t.direction i) (s.decidedBy p i b n t) j ∧
      judgeEntry p i claim (s.under p (s.judgement b n t)) =
        (s.under p
          { j with
            accounts := accountsWith s.accounts (s.judgingId p) i
              (.charged (tableGet (s.bank.get (s.judgingId p)).entries i).creditLimit
                (s.addressFaults p t.direction i).length) }, none) := by
  have hbank : (s.decidedBy p i b n t).bank.getD s.bc.active = s.judgingId p := hb
  rw [State.addressFaults_eq]
  generalize haccess : (tableGet (s.bank.get (s.judgingId p)).entries i).accessFault p t.direction = x
  generalize hread : (tableGet (s.bank.get (s.judgingId p)).entries i).readFault (s.bank.get (s.judgingId p))
    t.direction (s.pointerFor p i) = y
  generalize hcredit : (tableGet (s.bank.get (s.judgingId p)).entries i).creditFault
    (tableGet (s.accounts.get (s.judgingId p)) i).bucket = z
  obtain ⟨j₁, hstep₁, hlog₁⟩ := faultStep_logs (p := p) (i := i) ha hbank x
  have hbank₁ : j₁.bank.getD s.bc.active = s.judgingId p := by rw [hlog₁.bank]; exact hbank
  obtain ⟨j₂, hstep₂, hlog₂⟩ := faultStep_logs (p := p) (i := i) ha hbank₁ y
  have hbank₂ : j₂.bank.getD s.bc.active = s.judgingId p := by rw [hlog₂.bank]; exact hbank₁
  have hlog := hlog₁.append hlog₂
  have hread₁ : readListStep p i (tableGet (s.bank.get (s.judgingId p)).entries i) (s.under p j₁) =
      (s.under p j₂, none) := by
    rw [readListStep_eq, State.under_judged, hbank₁, State.under_part, State.under_pointerFor, hlog₁.direction]
    show faultStep p i _ ((tableGet (s.bank.get (s.judgingId p)).entries i).readFault _ t.direction _) _ = _
    rw [hread, hstep₂]
  have hbucket : (tableGet (s.bank.get (s.judgingId p)).entries i).creditFault
      (tableGet ((s.under p j₂).accounts.get ((s.under p j₂).judgedId p)) i).bucket = z := by
    rw [State.under_judgedId, hbank₂]
    show Entry.creditFault _ (tableGet (j₂.accounts.get (s.judgingId p)) i).bucket = z
    rw [hlog.bucket]
    exact hcredit
  have hjudge : judgeEntry p i claim (s.under p (s.judgement b n t)) =
      creditStep p i (tableGet (s.bank.get (s.judgingId p)).entries i) (s.under p j₂) := by
    rw [judgeEntry_eq hb hc, haccess, hstep₁]
    show andThen (readListStep p i _ (s.under p j₁)) _ = _
    rw [hread₁]
    rfl
  rw [hjudge]
  cases z with
  | none =>
    refine ⟨j₂, by simpa using hlog, ?_⟩
    rw [creditStep_of_pass hbucket, State.under_judgedId, hbank₂, State.under_updAccount, hlog.accounts]
    have haccounts : (s.decidedBy p i b n t).accounts = s.accounts := rfl
    rw [haccounts, accountsWith_accountsWith]
    simp only [Option.toList_none, List.append_nil]
    rfl
  | some z =>
    obtain ⟨j₃, hstep₃, hlog₃⟩ := faultStep_logs (p := p) (i := i) ha hbank₂ (some z)
    have hall := hlog.append hlog₃
    refine ⟨j₃, hall, ?_⟩
    rw [creditStep_of_fault hbucket, hstep₃]
    have haccounts : j₃.accounts = accountsWith s.accounts (s.judgingId p) i
        (.charged (tableGet (s.bank.get (s.judgingId p)).entries i).creditLimit
          (x.toList ++ y.toList ++ (some z).toList).length) := by
      rw [hall.accounts]
      show accountsWith s.accounts _ _ _ = _
      have hempty : (tableGet (s.accounts.get (s.judgingId p)) i).bucket.map (· - 1) =
          (tableGet (s.accounts.get (s.judgingId p)) i).bucket := by
        unfold Entry.creditFault at hcredit
        split at hcredit
        · rename_i h0
          rw [h0]
          rfl
        · rename_i h0
          rw [h0]
          rfl
        · cases hcredit
      unfold accountsWith EntryAccount.charged EntryAccount.violated
      rw [hempty, ite_self]
    rw [← haccounts]

end

end Sys2Proof.Machine
end

section
/-!
PROOFS. Which judgement an address byte comes to: the byte that completes an address (R28, R29, R38, R41), and the lookup of the
address (R54 to R60).
-/

namespace Sys2Proof.Machine

/-! ## The byte that completes an address -/

/-- The holder counts after a session that holds no bank captures the active one (R28, R128). -/
def State.capturedHolders (s : State) (p : Port) : PerBank Nat :=
  if (s.session.get p).bank = none then s.bc.holders.set s.bc.active (s.bc.holders.get s.bc.active + 1)
  else s.bc.holders

theorem captureBank_eq (p : Port) (s : State) :
    captureBank p s =
      { s with
        session := s.session.set p { s.session.get p with bank := some (s.judgingId p) },
        bc := { s.bc with holders := s.capturedHolders p } } := by
  unfold captureBank State.judgingId State.capturedHolders
  cases hb : (s.session.get p).bank with
  | none => rfl
  | some k =>
    have he : ({ s.session.get p with bank := some k } : Session) = s.session.get p := by rw [← hb]
    ext1
    case session => simp [he]
    all_goals simp

theorem beginPart_eq (p : Port) (b : Byte) (s : State) :
    beginPart p b s =
      { s with
        session := s.session.set p
          { s.session.get p with
            bank := some (s.judgingId p), part := { noPart with direction := byteDirection b } },
        bc := { s.bc with holders := s.capturedHolders p } } := by
  unfold beginPart
  rw [captureBank_eq]
  ext1
  case session => simp [State.updPart]
  all_goals rfl

/-- The judgement that a first address byte begins (R28). -/
def State.firstJudgement (s : State) (p : Port) (kind : AddrKind) (d : Direction) (a : Addr) : Judgement :=
  s.judgement (some (s.judgingId p)) (s.capturedHolders p) (newPart kind d a)

/-- A first address byte opens its judgement inside its hold. -/
theorem beginHold_setAddress (p : Port) (b : Byte) (kind : AddrKind) (a : Addr) (s : State) :
    beginHold p (setAddress p kind a (beginPart p b s)) = s.under p (s.firstJudgement p kind (byteDirection b) a) := by
  rw [beginPart_eq]
  ext1
  case session =>
    simp [beginHold, setAddress, State.updPart, State.under, State.firstJudgement, State.judgement, newPart, State.limits]
  all_goals rfl

theorem exec_addressByte {p : Port} {b : Byte} {s : State} (hp : s.phase = .inService)
    (ha : (s.session.get p).state = .address) :
    exec (.addressByte p b) s = .next
      (match (s.part p).held with
        | some first => tenBitWriteSecond p first b s
        | none => firstAddressByte p b s) :=
  congrArg Host.Outcome.next ((inService_eq _ hp).trans (if_pos ha))

theorem exec_firstAddressByte {p : Port} {b : Byte} {s : State} (hp : s.phase = .inService)
    (ha : (s.session.get p).state = .address) (hh : (s.part p).held = none) :
    exec (.addressByte p b) s = .next (firstAddressByte p b s) := by
  rw [exec_addressByte hp ha, hh]

theorem firstAddressByte_seven {p : Port} {b : Byte} {s : State} (ht : isTenBitFirst b = false) :
    firstAddressByte p b s = sevenBitAddress p b (beginPart p b s) := by
  unfold firstAddressByte
  rw [ht]
  rfl

theorem firstAddressByte_tenRead {p : Port} {b : Byte} {s : State} (ht : isTenBitFirst b = true)
    (hd : byteDirection b = .read) : firstAddressByte p b s = tenBitRead p b (beginPart p b s) := by
  unfold firstAddressByte
  rw [ht, hd]
  rfl

theorem firstAddressByte_tenWrite {p : Port} {b : Byte} {s : State} (ht : isTenBitFirst b = true)
    (hd : byteDirection b = .write) : firstAddressByte p b s = tenBitWriteFirst p b (beginPart p b s) := by
  unfold firstAddressByte
  rw [ht, hd]
  rfl

theorem beginPart_remembered (p : Port) (b : Byte) (s : State) :
    ((beginPart p b s).session.get p).remembered = (s.session.get p).remembered := by
  rw [beginPart_eq]
  simp

/-- A byte that completes an address has it judged, by the bank the session holds or captures now (R28, R29, R38, R41). -/
theorem exec_completes {p : Port} {b : Byte} {s : State} {kind : AddrKind} {d : Direction} {a : Addr}
    (h : s.completes p b kind d a) :
    ∃ k n, k.getD s.bc.active = s.judgingId p ∧
      exec (.addressByte p b) s = .next (settleAddress p (s.under p (s.judgement k n (newPart kind d a)))) := by
  obtain ⟨hp, ha, ⟨rfl, rfl, hh, ht, rfl, hm⟩ | ⟨rfl, rfl, first, hpart, rfl⟩ | ⟨rfl, rfl, hd, hh, ht, r, hr, hi, rfl⟩⟩ := h
  · refine ⟨some (s.judgingId p), s.capturedHolders p, rfl, ?_⟩
    rw [exec_firstAddressByte hp ha hh, firstAddressByte_seven ht]
    unfold sevenBitAddress
    simp only [beginHold_setAddress]
    exact congrArg Host.Outcome.next (if_neg hm)
  · refine ⟨(s.session.get p).bank, s.bc.holders, rfl, ?_⟩
    rw [exec_addressByte hp ha, hpart]
    refine congrArg (fun t => Host.Outcome.next (settleAddress p t)) ?_
    have hpart' : (s.session.get p).part = heldAddress first := hpart
    ext1
    case session =>
      simp [beginHold, setAddress, State.updPart, State.under, State.judgement, newPart, State.limits, hpart', heldAddress,
        noPart, addr10]
    all_goals rfl
  · refine ⟨some (s.judgingId p), s.capturedHolders p, rfl, ?_⟩
    rw [exec_firstAddressByte hp ha hh, firstAddressByte_tenRead ht hd]
    unfold tenBitRead
    rw [beginPart_remembered, hr]
    simp only [beginHold_setAddress, hd]
    exact congrArg Host.Outcome.next (if_pos hi)

/-! ## The lookup -/

section

variable {s : State} {p : Port} {kind : AddrKind} {d : Direction} {a : Addr} {i : EntryIdx}

theorem grantingEntry_of_granted (h : s.grantedBy p kind a i) :
    grantingEntry (s.bank.get (s.judgingId p)) p kind a = some i := by
  obtain ⟨hclaims, haccess, honly⟩ := h
  refine findEntry_unique _ _ i (by simpa using ⟨hclaims, haccess⟩) fun j hj => ?_
  simp only [ne_eq, decide_not, Bool.and_eq_true, Bool.not_eq_true', decide_eq_false_iff_not] at hj
  exact honly j hj.1 hj.2

theorem grantingEntry_of_denied (h : s.deniedBy p kind a i) :
    grantingEntry (s.bank.get (s.judgingId p)) p kind a = none := by
  obtain ⟨-, hleast⟩ := h
  refine (findEntry_none _ _).mpr fun j => ?_
  cases hj : (tableGet (s.bank.get (s.judgingId p)).entries j).claims kind a with
  | false => rfl
  | true => simp [(hleast j hj).1]

theorem claimingEntry_of_denied (h : s.deniedBy p kind a i) :
    claimingEntry (s.bank.get (s.judgingId p)) p kind a = some i := by
  obtain ⟨hclaims, hleast⟩ := h
  refine findEntry_least _ _ i (by simpa using ⟨hclaims, (hleast i hclaims).1⟩) fun j hj => ?_
  simp only [Bool.and_eq_true, decide_eq_true_eq] at hj
  exact (hleast j hj.1).2

theorem lookup_of_unclaimed (h : ∀ i, (tableGet (s.bank.get (s.judgingId p)).entries i).claims kind a = false) :
    grantingEntry (s.bank.get (s.judgingId p)) p kind a = none ∧
      claimingEntry (s.bank.get (s.judgingId p)) p kind a = none :=
  ⟨(findEntry_none _ _).mpr fun j => by rw [h j]; rfl, (findEntry_none _ _).mpr fun j => by rw [h j]; rfl⟩

theorem lookedUp_not_zero (h : lookedUp kind a) : ¬(kind = .seven ∧ a = 0) := by
  rintro ⟨hk, rfl⟩
  exact absurd (h hk).1 (by decide)

theorem lookedUp_not_reserved (h : lookedUp kind a) : ¬(kind = .seven ∧ reservedAddress a = true) := by
  rintro ⟨hk, hr⟩
  have := h hk
  simp only [reservedAddress, Bool.or_eq_true, Bool.and_eq_true, decide_eq_true_eq] at hr
  omega

variable {b : Option BankId} {n : PerBank Nat} (hb : b.getD s.bc.active = s.judgingId p)
include hb

/-- An address that is looked up is judged by the entry that grants it, the lowest that claims it, or the default action (R58 to
R60). -/
theorem judgeAddress_lookedUp (hl : lookedUp kind a) :
    judgeAddress p (s.under p (s.judgement b n (newPart kind d a))) =
      (grantingEntry (s.bank.get (s.judgingId p)) p kind a).elim
        ((claimingEntry (s.bank.get (s.judgingId p)) p kind a).elim
          (if (s.bank.get (s.judgingId p)).header.defaultAction = .forward then
            (s.under p
              (s.judgement b n
                ((newPart kind d a).decided .defaultForward (s.bank.get (s.judgingId p)).header.defaultSegment a)), none)
          else (s.under p (s.judgement b n (newPart kind d a)), some (.noEntry, none)))
          fun i => judgeEntry p i true (s.under p (s.judgement b n (newPart kind d a))))
        fun i => judgeEntry p i false (s.under p (s.judgement b n (newPart kind d a))) := by
  have hbank : (s.judgement b n (newPart kind d a)).bank.getD s.bc.active = s.judgingId p := hb
  have hdecided : ∀ g x, setDecision p .defaultForward g x (s.under p (s.judgement b n (newPart kind d a))) =
      s.under p (s.judgement b n ((newPart kind d a).decided .defaultForward g x)) :=
    fun g x => State.under_updPart s p _ _
  unfold judgeAddress
  simp only [State.under_part, State.under_judged, hbank, State.judgement_part, newPart_kind, newPart_address, hdecided]
  rw [if_neg (lookedUp_not_zero hl), if_neg (lookedUp_not_reserved hl)]
  cases grantingEntry (s.bank.get (s.judgingId p)) p kind a with
  | some i => rfl
  | none =>
    cases claimingEntry (s.bank.get (s.judgingId p)) p kind a with
    | some i => rfl
    | none => rfl

theorem judgeAddress_granted (hl : lookedUp kind a) (h : s.grantedBy p kind a i) :
    judgeAddress p (s.under p (s.judgement b n (newPart kind d a))) =
      judgeEntry p i false (s.under p (s.judgement b n (newPart kind d a))) := by
  rw [judgeAddress_lookedUp hb hl, grantingEntry_of_granted h]
  rfl

theorem judgeAddress_denied (hl : lookedUp kind a) (h : s.deniedBy p kind a i) :
    judgeAddress p (s.under p (s.judgement b n (newPart kind d a))) =
      judgeEntry p i true (s.under p (s.judgement b n (newPart kind d a))) := by
  rw [judgeAddress_lookedUp hb hl, grantingEntry_of_denied h, claimingEntry_of_denied h]
  rfl

/-- An address that an entry decides, granting the port or denying it. -/
theorem judgeAddress_byEntry (hl : lookedUp kind a) (h : s.grantedBy p kind a i ∨ s.deniedBy p kind a i) :
    ∃ claim : Bool,
      (claim = true ↔ (tableGet (s.bank.get (s.judgingId p)).entries i).access.get p = .none) ∧
        judgeAddress p (s.under p (s.judgement b n (newPart kind d a))) =
          judgeEntry p i claim (s.under p (s.judgement b n (newPart kind d a))) := by
  rcases h with h | h
  · exact ⟨false, by simpa using h.2.1, judgeAddress_granted hb hl h⟩
  · exact ⟨true, by simpa using (h.2 i h.1).1, judgeAddress_denied hb hl h⟩

/-- An address no entry claims goes to the default segment under FORWARD (R60). -/
theorem judgeAddress_default (hl : lookedUp kind a)
    (h : ∀ i, (tableGet (s.bank.get (s.judgingId p)).entries i).claims kind a = false)
    (hf : (s.bank.get (s.judgingId p)).header.defaultAction = .forward) :
    judgeAddress p (s.under p (s.judgement b n (newPart kind d a))) =
      (s.under p
        (s.judgement b n
          ((newPart kind d a).decided .defaultForward (s.bank.get (s.judgingId p)).header.defaultSegment a)), none) := by
  obtain ⟨hgrant, hclaim⟩ := lookup_of_unclaimed h
  rw [judgeAddress_lookedUp hb hl, hgrant, hclaim]
  exact if_pos hf

/-- An address no entry claims is refused NO_ENTRY under DENY (R60). -/
theorem judgeAddress_deny (hl : lookedUp kind a)
    (h : ∀ i, (tableGet (s.bank.get (s.judgingId p)).entries i).claims kind a = false)
    (hf : (s.bank.get (s.judgingId p)).header.defaultAction = .deny) :
    judgeAddress p (s.under p (s.judgement b n (newPart kind d a))) =
      (s.under p (s.judgement b n (newPart kind d a)), some (.noEntry, none)) := by
  obtain ⟨hgrant, hclaim⟩ := lookup_of_unclaimed h
  rw [judgeAddress_lookedUp hb hl, hgrant, hclaim]
  exact if_neg (by rw [hf]; decide)

/-- A general call that is forwarded (R54). -/
theorem judgeAddress_generalCall (hf : (s.bank.get (s.judgingId p)).header.generalCallAction = .forward) :
    judgeAddress p (s.under p (s.judgement b n (newPart .seven .write 0))) =
      (s.under p
        (s.judgement b n
          ((newPart .seven .write 0).decided .generalCallForward
            (s.bank.get (s.judgingId p)).header.generalCallSegment 0)), none) := by
  have hbank : (s.judgement b n (newPart .seven .write 0)).bank.getD s.bc.active = s.judgingId p := hb
  unfold judgeAddress
  simp only [State.under_part, State.under_judged, hbank]
  rw [if_pos ⟨rfl, rfl⟩, if_pos ⟨rfl, hf⟩]
  exact congrArg (·, none) (State.under_updPart s p _ _)

end

/-! ## Forward decisions -/

/-- The accounts after the credit of a decision is taken (R63, R119). -/
def State.creditAccounts (s : State) (p : Port) : Decision → PerBank (Vector EntryAccount 128)
  | .entry i =>
    accountsWith s.accounts (s.judgingId p) i
      (.charged (tableGet (s.bank.get (s.judgingId p)).entries i).creditLimit 0)
  | _ => s.accounts

theorem creditTaken_of {s t : State} {p : Port} {c : Decision} (h : t.accounts = s.creditAccounts p c) :
    CreditTaken p c s t := by
  intro k i
  rw [h]
  cases c with
  | entry l =>
    simp only [State.creditAccounts, tableGet_accountsWith, Decision.entry.injEq]
    by_cases hk : k = s.judgingId p
    · by_cases hi : i = l
      · subst hk hi
        cases hc : (tableGet (s.bank.get (s.judgingId p)).entries i).creditLimit <;>
          simp [EntryAccount.charged]
      · simp [hi, Ne.symm hi]
    · simp [hk]
  | defaultForward | generalCallForward | management | refused => simp [State.creditAccounts]

/-- An entry that passes an address has no fault there. -/
theorem addressFaults_of_passes {s : State} {p : Port} {kind : AddrKind} {d : Direction} {a : Addr} {i : EntryIdx}
    (h : s.entryPasses p kind d a i) : s.addressFaults p d i = [] := by
  obtain ⟨⟨-, hgrant, -⟩, hallows, hread, hcredit⟩ := h
  rw [State.addressFaults_eq]
  have haccess : (tableGet (s.bank.get (s.judgingId p)).entries i).accessFault p d = none := by
    unfold Entry.accessFault
    rw [if_neg hgrant, if_pos hallows]
  have hreads : (tableGet (s.bank.get (s.judgingId p)).entries i).readFault (s.bank.get (s.judgingId p)) d
      (s.pointerFor p i) = none := by
    unfold Entry.readFault
    cases d with
    | write => rfl
    | read =>
      cases hl : (tableGet (s.bank.get (s.judgingId p)).entries i).readList with
      | none => rfl
      | some l =>
        obtain ⟨o, ho, hin⟩ := hread rfl l hl
        rw [ho]
        exact if_neg fun ⟨hm, hout⟩ => by simp [hin hm] at hout
  have hcredits : (tableGet (s.bank.get (s.judgingId p)).entries i).creditFault
      (tableGet (s.accounts.get (s.judgingId p)) i).bucket = none := by
    unfold Entry.creditFault
    cases hl : (tableGet (s.bank.get (s.judgingId p)).entries i).creditLimit with
    | none => rfl
    | some l =>
      obtain ⟨m, hm⟩ := hcredit (by simp [hl])
      rw [hm]
      rfl
  rw [haccess, hreads, hcredits]
  rfl

/-- A forward decision is held in the part, and its credit taken (R63, R66). -/
theorem judgeAddress_forwards {s : State} {p : Port} {kind : AddrKind} {d : Direction} {a : Addr} {c : Decision}
    {g : SegId} {x : Addr} {b : Option BankId} {n : PerBank Nat} (hb : b.getD s.bc.active = s.judgingId p)
    (h : s.forwards p kind d a c g x) :
    judgeAddress p (s.under p (s.judgement b n (newPart kind d a))) =
      (s.under p
        { s.judgement b n ((newPart kind d a).decided c g x) with accounts := s.creditAccounts p c }, none) := by
  obtain ⟨rfl, rfl, rfl, hf, rfl, rfl, rfl⟩ | ⟨hl, hn, hf, rfl, rfl, rfl⟩ | ⟨hl, i, hi, rfl, rfl, rfl⟩ := h
  · exact judgeAddress_generalCall hb hf
  · exact judgeAddress_default hb hl hn hf
  · rw [judgeAddress_granted hb hl hi.1, judgeEntry_passes hb (by simpa using hi.1.2.1) (addressFaults_of_passes hi)]
    rfl

end Sys2Proof.Machine
end

section
/-!
PROOFS. What a forwarded part meets at its segment: a grant, its own segment, a wait, or a refusal (R30, R31, R43, R67, R98, R100).
-/

namespace Sys2Proof.Machine

theorem addressBytes_eq (t : Part) : addressBytes t = targetBytes t.kind t.direction t.target := by
  cases hk : t.kind <;> cases hd : t.direction <;> simp [addressBytes, targetBytes, hk, hd, addressByte10, rwBit]

/-! ## Requests -/

/-- A segment granted to a port, with the address of its part to drive after a START (R31, R98, R113). -/
def granted (p : Port) (speed : Speed) (t : Byte × List Byte) (c : Segment) : Segment :=
  { c with
    state := .owned, owner := some p, waiters := c.waiters.erase p, speed := speed,
    act := some (.address false t.1 t.2), ninthOwed := false }

/-- The target address bytes of a part (R31). -/
def Part.bytes (t : Part) : Byte × List Byte := targetBytes t.kind t.direction t.target

theorem grantSegment_eq (p : Port) (g : SegId) (s : State) :
    grantSegment p g s =
      { s with
        session := s.session.set p { s.session.get p with state := .connect, owned := some g, wait := none },
        seg := s.seg.set g (granted p (s.settings.speed.get g) (s.part p).bytes (s.seg.get g)),
        segCounters := s.segCounters.set g
          { s.segCounters.get g with grants := satInc (s.segCounters.get g).grants } } := by
  ext1
  case session => simp [grantSegment, driveAddress, countGrant, State.setSessionState]
  case seg => simp [grantSegment, driveAddress, countGrant, granted, Part.bytes, State.part, addressBytes_eq]
  all_goals rfl

theorem joinWaiters_of_limit {p : Port} {g : SegId} {s : State} (h : (s.limits p).wait ≠ 0) :
    joinWaiters p g s =
      { s with
        session := s.session.set p { s.session.get p with wait := some (s.limits p).wait },
        seg := s.seg.set g { s.seg.get g with waiters := (s.seg.get g).waiters ++ [p] } } :=
  if_neg h

/-- A port whose wait limit is 0 is refused at once, and seeks the segment no more than before (R30). -/
theorem joinWaiters_of_noLimit {p : Port} {g : SegId} {s : State} (h : (s.limits p).wait = 0)
    (hg : (s.part p).segment = some g) (hn : p ∉ (s.seg.get g).seekers) :
    joinWaiters p g s = refuseAddress p .grantTimeout none s := by
  have hwaiters : p ∉ (s.seg.get g).waiters := fun hm => hn (List.mem_append_left _ hm)
  have hdeferred : Deferred.request p ∉ (s.seg.get g).deferred := fun hm =>
    hn (List.mem_append_right _ (List.mem_filterMap.mpr ⟨_, hm, rfl⟩))
  have hwithdraw : withdraw p (s.updSeg g fun c => { c with waiters := c.waiters ++ [p] }) = s := by
    unfold withdraw
    rw [show (s.updSeg g fun c => { c with waiters := c.waiters ++ [p] }).part p = s.part p from rfl, hg]
    ext1
    case seg =>
      simp [List.erase_append_right _ hwaiters, List.erase_of_not_mem hdeferred]
      exact PerSeg.set_get _ _
    all_goals rfl
  unfold joinWaiters
  rw [if_pos h, hwithdraw]

section

variable {p : Port} {g : SegId} {s : State}

theorem requestSegment_of_idle (h : (s.seg.get g).state = .idle) :
    requestSegment p g s =
      { s with
        session := s.session.set p { s.session.get p with state := .connect, owned := some g, wait := none },
        seg := s.seg.set g (granted p (s.settings.speed.get g) (s.part p).bytes (s.seg.get g)),
        segCounters := s.segCounters.set g
          { s.segCounters.get g with grants := satInc (s.segCounters.get g).grants } } := by
  have hrequest : requestSegment p g s = grantSegment p g (s.setSessionState p .grantWait) := by
    unfold requestSegment
    dsimp only
    rw [State.setSessionState, State.updSession_seg, h]
  rw [hrequest, grantSegment_eq]
  ext1
  case session => simp [State.setSessionState]
  case seg => simp [State.setSessionState, State.part]
  all_goals rfl

/-- A segment that makes a port wait: OWNED by a port, or CLOSING (R98). -/
def Segment.busy (c : Segment) : Prop := (c.state = .owned ∧ c.owner.isSome) ∨ c.state = .closing

theorem requestSegment_of_busy (h : (s.seg.get g).busy) :
    requestSegment p g s = joinWaiters p g (s.setSessionState p .grantWait) := by
  unfold requestSegment
  dsimp only
  rw [State.setSessionState, State.updSession_seg]
  rcases h with ⟨hs, ho⟩ | hs
  · obtain ⟨q, hq⟩ := Option.isSome_iff_exists.mp ho
    rw [hs, hq]
  · rw [hs]

theorem requestSegment_of_released (h : (s.seg.get g).state = .owned) (h' : (s.seg.get g).owner = none) :
    requestSegment p g s =
      { s with
        session := s.session.set p { s.session.get p with state := .grantWait },
        seg := s.seg.set g { s.seg.get g with deferred := (s.seg.get g).deferred ++ [.request p] } } := by
  have hrequest : requestSegment p g s = defer g (.request p) (s.setSessionState p .grantWait) := by
    unfold requestSegment
    dsimp only
    rw [State.setSessionState, State.updSession_seg, h, h']
  exact hrequest

theorem requestSegment_of_outOfUse (h : (s.seg.get g).state = .quarantined ∨ (s.seg.get g).state = .disabled) :
    requestSegment p g s = refuseAddress p .segmentUnavailable none (s.setSessionState p .grantWait) := by
  unfold requestSegment
  dsimp only
  rw [State.setSessionState, State.updSession_seg]
  rcases h with h | h <;> rw [h]

/-! ## Forwarded parts -/

variable (hg : (s.part p).segment = some g)
include hg

theorem forwardPart_own (ho : (s.session.get p).owned = some g) :
    forwardPart p s =
      { s with
        session := s.session.set p { s.session.get p with state := .connect },
        seg := s.seg.set g
          { s.seg.get g with
            act := some (.address true (s.part p).bytes.1 (s.part p).bytes.2), ninthOwed := false } } := by
  unfold forwardPart
  rw [hg]
  dsimp only
  rw [if_pos ho]
  ext1
  case seg => simp [driveAddress, State.setSessionState, State.part, Part.bytes, addressBytes_eq]
  all_goals rfl

theorem forwardPart_requests (ho : (s.session.get p).owned ≠ some g) :
    forwardPart p s = requestSegment p g (releaseSegment p s) := by
  unfold forwardPart
  rw [hg]
  exact if_neg ho

end

/-! ## A judged part without its old segment -/

/-- The state in which a judged part seeks its segment, or is refused: what the session owned is being released (R43). -/
def State.seeking (s : State) (p : Port) (j : Judgement) : State :=
  { s.under p j with
    session := s.session.set p
      { (s.session.get p).unseated with
        bank := j.bank, part := j.part, stretch := some (s.limits p).stretch, abandon := none },
    seg := s.segReleased p }

/-- What a judgement sets of a session is none of what the end of an ownership clears. -/
theorem Session.unseated_judged (e : Session) (b : Option BankId) (t : Part) (x y : Option Byte) :
    ({ e with bank := b, part := t, stretch := x, abandon := y } : Session).unseated =
      { e.unseated with bank := b, part := t, stretch := x, abandon := y } := by
  unfold Session.unseated
  dsimp only
  split <;> rfl

section

variable (s : State) (p : Port) (j : Judgement)

theorem releaseSegment_under : releaseSegment p (s.under p j) = s.seeking p j := by
  rw [releaseSegment_eq]
  ext1
  case session =>
    show (s.under p j).session.set p ((s.under p j).session.get p).unseated = _
    rw [State.under_session, Session.unseated_judged]
    simp [State.under, State.seeking]
  case seg => exact PerSeg.ext_get fun g => by simp [State.seeking, State.under]
  all_goals rfl

theorem State.seeking_session :
    (s.seeking p j).session.get p =
      { (s.session.get p).unseated with
        bank := j.bank, part := j.part, stretch := some (s.limits p).stretch, abandon := none } := by
  simp [State.seeking]

theorem State.seeking_upi : (s.seeking p j).upi.get p = { s.upi.get p with hold := true } := by
  simp [State.seeking, State.under]

@[simp] theorem State.seeking_part : (s.seeking p j).part p = j.part := by simp [State.part, State.seeking_session]

theorem State.seeking_seg {g : SegId} (h : (s.session.get p).owned ≠ some g) :
    (s.seeking p j).seg.get g = s.seg.get g := by
  simp [State.seeking, h]

theorem State.seeking_queueWith (r : Reason) (o : RecordOutcome) (x : Option Half) :
    (s.seeking p j).queueWith p r o x = s.judgeQueue p j r o x := by
  rw [← State.under_queueWith]
  exact queueWith_congr _ _ _ _ (s.under p j) (s.seeking p j) (by simp) rfl
    (by simp [State.judged, State.judgedId, State.seeking, State.under])

end

/-! ## Refusals -/

/-- A state with the part of a port, inside a hold, refused: NACK, DISCARD, the hold ended (R29, R30, R44). -/
def State.refusedState (s : State) (p : Port) (r : Reason) (q : ViolationQueue) (f : PerPort AlertFlags)
    (a : PerPort Level) : State :=
  { s with
    queue := q, flags := f, alert := a,
    upi := s.upi.set p
      { phase := answerPhase (s.part p).direction, hold := false,
        shift := discardShift s.settings.filler (s.part p).direction, ninth := some .nack },
    session := s.session.set p
      { s.session.get p with
        state := .discard, wait := none, stretch := none, abandon := some (s.limits p).abandon,
        part := { s.part p with recorded := true, held := none, decision := some (.refused r) } } }

theorem refuseAddress_of_held (p : Port) (r : Reason) (x : Option Half) (s : State) (h : (s.upi.get p).hold = true) :
    ∃ f a, refuseAddress p r x s = s.refusedState p r (s.queueWith p r .refused x) f a := by
  obtain ⟨f, a, he⟩ := refuseAddress_eq p r x s
  refine ⟨f, a, ?_⟩
  rw [he, h]
  rfl

theorem discarding_refusedState {s : State} {p : Port} {r : Reason} {q : ViolationQueue} {f : PerPort AlertFlags}
    {a : PerPort Level} (h : (s.session.get p).owned = none) : Discarding p (s.refusedState p r q f a) := by
  have hsession : (s.refusedState p r q f a).session.get p =
      { s.session.get p with
        state := .discard, wait := none, stretch := none, abandon := some (s.limits p).abandon,
        part := { s.part p with recorded := true, held := none, decision := some (.refused r) } } := by
    simp [State.refusedState]
  apply discarding_of
  case hupi => rw [State.part, hsession]; simp [State.refusedState]
  all_goals simp only [State.part, hsession]
  exact h

/-- A port whose judged part has been refused: in DISCARD, what it owned being released, its record made (R29, R30, R43). -/
structure JudgedRefused (p : Port) (j : Judgement) (r : Reason) (x : Option Half) (s t : State) : Prop where
  discarding : Discarding p t
  decision : (t.part p).decision = some (.refused r)
  recorded : (t.part p).recorded = true
  address : (t.part p).address = j.part.address ∧ (t.part p).kind = j.part.kind ∧
    (t.part p).direction = j.part.direction
  seg : t.seg = s.segReleased p
  segCounters : t.segCounters = s.segCounters
  queue : t.queue = s.judgeQueue p j r .refused x
  accounts : t.accounts = j.accounts
  bank : t.bank = s.bank
  refill : t.refill = s.refill
  portCounters : t.portCounters = s.portCounters
  management : KeepsManagement s t
  port : KeepsPort p.other s t

theorem refuseAddress_seeking (s : State) (p : Port) (j : Judgement) (r : Reason) (x : Option Half) (c : SessionState) :
    JudgedRefused p j r x s (refuseAddress p r x ((s.seeking p j).setSessionState p c)) := by
  have hsession : ((s.seeking p j).setSessionState p c).session.get p =
      { (s.session.get p).unseated with
        state := c, bank := j.bank, part := j.part, stretch := some (s.limits p).stretch, abandon := none } := by
    simp [State.setSessionState, State.seeking_session]
  have hpart : ((s.seeking p j).setSessionState p c).part p = j.part := by rw [State.part, hsession]
  obtain ⟨f, a, h⟩ := refuseAddress_of_held p r x ((s.seeking p j).setSessionState p c)
    (by simp [State.setSessionState, State.seeking, State.under])
  have hqueue : ((s.seeking p j).setSessionState p c).queueWith p r .refused x = s.judgeQueue p j r .refused x := by
    rw [← State.seeking_queueWith]
    exact queueWith_congr _ _ _ _ (s.seeking p j) _ (by rw [hpart]; simp) rfl
      (by simp [State.judged, State.judgedId, State.seeking, State.setSessionState])
  rw [h, hqueue]
  constructor
  case discarding => exact discarding_refusedState (by rw [hsession]; simp)
  case decision | recorded => simp [State.part, State.refusedState]
  case address => rw [← hpart]; simp [State.part, State.refusedState]
  case port => simp [KeepsPort, State.refusedState, State.seeking, State.under, State.setSessionState]
  case management => exact ⟨rfl, rfl, rfl, rfl, rfl, rfl, rfl, rfl, rfl, rfl, rfl⟩
  all_goals rfl

theorem JudgedRefused.released {p : Port} {j : Judgement} {r : Reason} {x : Option Half} {s t : State}
    (h : JudgedRefused p j r x s t) : Released p s t := fun g => by
  rw [h.seg]
  exact s.get_segReleased p g

theorem JudgedRefused.releasedBut {p : Port} {j : Judgement} {r : Reason} {x : Option Half} {s t : State}
    (h : JudgedRefused p j r x s t) (g : SegId) : ReleasedBut g p s t :=
  fun l _ => ⟨by rw [h.segCounters], h.released l⟩

/-- A judged part refused as its segment is released (R29, R43). -/
theorem refuseAddress_released (s : State) (p : Port) (j : Judgement) (r : Reason) (x : Option Half) :
    JudgedRefused p j r x s (refuseAddress p r x (releaseSegment p (s.under p j))) := by
  have hstate : (s.seeking p j).setSessionState p (s.session.get p).state = s.seeking p j := by
    ext1
    case session => simp [State.setSessionState, State.seeking]
    all_goals rfl
  rw [releaseSegment_under, ← hstate]
  exact refuseAddress_seeking s p j r x _

/-- A refusing judgement answers the part at once (R29, R43). -/
theorem settleAddress_refuses {s u : State} {p : Port} {j : Judgement} {r : Reason} {x : Option Half}
    (h : judgeAddress p u = (s.under p j, some (r, x))) : JudgedRefused p j r x s (settleAddress p u) := by
  have hsettle : settleAddress p u = refuseAddress p r x (releaseSegment p (s.under p j)) := by
    unfold settleAddress
    rw [h]
  rw [hsettle]
  exact refuseAddress_released s p j r x

theorem settleAddress_forwards {s u : State} {p : Port} {j : Judgement} (h : judgeAddress p u = (s.under p j, none)) :
    settleAddress p u = forwardPart p (s.under p j) := by
  unfold settleAddress
  rw [h]

end Sys2Proof.Machine
end

section
/-!
PROOFS. A forwarded part at its segment, under any judgement that forwards it; and the statements about forwarded parts (R30, R31,
R43, R66, R67, R98, R100).
-/

namespace Sys2Proof.Machine

/-- A judged part that goes on inside its hold: its records, accounts and fields are those the judgement gave it. -/
structure Carried (p : Port) (j : Judgement) (s t : State) : Prop where
  part : t.part p = j.part
  holding : Holding p s t
  accounts : t.accounts = j.accounts
  queue : t.queue = j.queue
  flags : t.flags = j.flags
  alert : t.alert = j.alert
  bank : t.bank = s.bank
  refill : t.refill = s.refill
  portCounters : t.portCounters = s.portCounters
  management : KeepsManagement s t
  port : KeepsPort p.other s t

/-- A session and segments put in place of those of a judgement's state carry the judged part, if that session does. -/
theorem carried_of {s : State} {p : Port} {j : Judgement} {e : Session} {c : PerSeg Segment} {n : PerSeg SegCounters}
    (hpart : e.part = j.part) (hstretch : e.stretch = some (s.limits p).stretch) (habandon : e.abandon = none) :
    Carried p j s { s.under p j with session := s.session.set p e, seg := c, segCounters := n } where
  part := by simpa [State.part] using hpart
  holding := by simp [Holding, State.under, hstretch, habandon]
  accounts := rfl
  queue := rfl
  flags := rfl
  alert := rfl
  bank := rfl
  refill := rfl
  portCounters := rfl
  management := ⟨rfl, rfl, rfl, rfl, rfl, rfl, rfl, rfl, rfl, rfl, rfl⟩
  port := by simp [KeepsPort, State.under]

theorem State.waitsFor.busy {s : State} {p : Port} {g : SegId} (h : s.waitsFor p g) : (s.seg.get g).busy := by
  rcases h with ⟨hs, ho⟩ | hs
  · exact .inl ⟨hs, by simp [ho]⟩
  · exact .inr hs

section

variable {s : State} {p : Port} {j : Judgement} {g : SegId} (hj : j.part.segment = some g)
include hj

/-- An IDLE segment is granted at once (R98). -/
theorem forward_granted (ho : (s.session.get p).owned ≠ some g) (hi : (s.seg.get g).state = .idle) :
    ∃ t, forwardPart p (s.under p j) = t ∧ Carried p j s t ∧ (t.session.get p).state = .connect ∧
      (t.session.get p).owned = some g ∧ (t.session.get p).wait = none ∧
      t.seg.get g = granted p (s.settings.speed.get g) j.part.bytes (s.seg.get g) ∧
      t.segCounters.get g = { s.segCounters.get g with grants := satInc (s.segCounters.get g).grants } ∧
      ReleasedBut g p s t := by
  have hseg := State.seeking_seg s p j ho
  refine ⟨{ s.under p j with
      session := s.session.set p
        { (s.seeking p j).session.get p with state := .connect, owned := some g, wait := none },
      seg := (s.segReleased p).set g (granted p (s.settings.speed.get g) j.part.bytes (s.seg.get g)),
      segCounters := s.segCounters.set g
        { s.segCounters.get g with grants := satInc (s.segCounters.get g).grants } }, ?_, ?_, ?_⟩
  · rw [forwardPart_requests (by simpa using hj) (by rw [State.under_session]; exact ho), releaseSegment_under,
      requestSegment_of_idle (by rw [hseg]; exact hi), hseg, State.seeking_part]
    ext1
    case session => simp [State.seeking]
    all_goals rfl
  · exact carried_of (by rw [State.seeking_session]) (by rw [State.seeking_session]) (by rw [State.seeking_session])
  · refine ⟨by simp, by simp, by simp, by simp, by simp, fun h hne => ?_⟩
    simp [hne]

/-- A segment the session kept is driven a repeated START (R43). -/
theorem forward_own (ho : (s.session.get p).owned = some g) :
    ∃ t, forwardPart p (s.under p j) = t ∧ Carried p j s t ∧ (t.session.get p).state = .connect ∧
      (t.session.get p).owned = some g ∧ (t.session.get p).pointer = (s.session.get p).pointer ∧
      (t.session.get p).remembered = (s.session.get p).remembered ∧
      t.seg.get g =
        { s.seg.get g with act := some (.address true j.part.bytes.1 j.part.bytes.2), ninthOwed := false } ∧
      KeepsOtherSegs g s t ∧ t.segCounters = s.segCounters := by
  refine ⟨{ s.under p j with
      session := s.session.set p { (s.under p j).session.get p with state := .connect },
      seg := s.seg.set g
        { s.seg.get g with act := some (.address true j.part.bytes.1 j.part.bytes.2), ninthOwed := false },
      segCounters := s.segCounters }, ?_, ?_, ?_⟩
  · rw [forwardPart_own (by simpa using hj) (by rw [State.under_session]; exact ho), State.under_part]
    ext1
    case session => simp [State.under]
    all_goals rfl
  · exact carried_of (by rw [State.under_session]) (by rw [State.under_session]) (by rw [State.under_session])
  · rw [State.under_session]
    refine ⟨by simp, by simpa using ho, by simp, by simp, by simp, fun h hne => ?_, rfl⟩
    simp [hne]

/-- A busy segment makes the port wait (R98). -/
theorem forward_waits (ho : (s.session.get p).owned ≠ some g) (hw : s.waitsFor p g) (hl : (s.limits p).wait ≠ 0) :
    ∃ t, forwardPart p (s.under p j) = t ∧ Carried p j s t ∧ (t.session.get p).state = .grantWait ∧
      (t.session.get p).owned = none ∧ (t.session.get p).wait = some (s.limits p).wait ∧
      t.seg.get g = { s.seg.get g with waiters := (s.seg.get g).waiters ++ [p] } ∧ t.segCounters = s.segCounters ∧
      ReleasedBut g p s t := by
  have hseg := State.seeking_seg s p j ho
  refine ⟨{ s.under p j with
      session := s.session.set p
        { (s.seeking p j).session.get p with state := .grantWait, wait := some (s.limits p).wait },
      seg := (s.segReleased p).set g { s.seg.get g with waiters := (s.seg.get g).waiters ++ [p] },
      segCounters := s.segCounters }, ?_, ?_, ?_⟩
  · rw [forwardPart_requests (by simpa using hj) (by rw [State.under_session]; exact ho), releaseSegment_under,
      requestSegment_of_busy (by rw [hseg]; exact hw.busy), joinWaiters_of_limit (s := (s.seeking p j).setSessionState p .grantWait) hl]
    ext1
    case session => simp [State.seeking, State.setSessionState, State.limits, State.under]
    case seg => simp [State.setSessionState, hseg]; rfl
    all_goals rfl
  · exact carried_of (by rw [State.seeking_session]) (by rw [State.seeking_session]) (by rw [State.seeking_session])
  · rw [State.seeking_session]
    refine ⟨by simp, by simp, by simp, by simp, rfl, fun h hne => ?_⟩
    simp [hne]

/-- On a segment being released the request waits for the STOP (R100; log entry 5). -/
theorem forward_deferred (ho : (s.session.get p).owned ≠ some g) (hs : (s.seg.get g).state = .owned)
    (hn : (s.seg.get g).owner = none) :
    ∃ t, forwardPart p (s.under p j) = t ∧ Carried p j s t ∧ (t.session.get p).state = .grantWait ∧
      (t.session.get p).owned = none ∧ (t.session.get p).wait = (s.session.get p).wait ∧
      t.seg.get g = { s.seg.get g with deferred := (s.seg.get g).deferred ++ [.request p] } ∧
      t.segCounters = s.segCounters ∧ ReleasedBut g p s t := by
  have hseg := State.seeking_seg s p j ho
  refine ⟨{ s.under p j with
      session := s.session.set p { (s.seeking p j).session.get p with state := .grantWait },
      seg := (s.segReleased p).set g { s.seg.get g with deferred := (s.seg.get g).deferred ++ [.request p] },
      segCounters := s.segCounters }, ?_, ?_, ?_⟩
  · rw [forwardPart_requests (by simpa using hj) (by rw [State.under_session]; exact ho), releaseSegment_under,
      requestSegment_of_released (by rw [hseg]; exact hs) (by rw [hseg]; exact hn), hseg]
    ext1
    case session => simp [State.seeking]
    all_goals rfl
  · exact carried_of (by rw [State.seeking_session]) (by rw [State.seeking_session]) (by rw [State.seeking_session])
  · rw [State.seeking_session]
    refine ⟨by simp, by simp, by simp, by simp, rfl, fun h hne => ?_⟩
    simp [hne]

/-- A segment out of use, or one that would make a port wait that may not, refuses the part (R30, R67). -/
theorem forward_refused {r : Reason} (ho : (s.session.get p).owned ≠ some g) (hn : p ∉ (s.seg.get g).seekers)
    (hr : s.refusesRequest p g r) : JudgedRefused p j r none s (forwardPart p (s.under p j)) := by
  have hseg := State.seeking_seg s p j ho
  have hforward : forwardPart p (s.under p j) =
      refuseAddress p r none ((s.seeking p j).setSessionState p .grantWait) := by
    rw [forwardPart_requests (by simpa using hj) (by rw [State.under_session]; exact ho), releaseSegment_under]
    rcases hr with ⟨hs, rfl⟩ | ⟨hw, hl, rfl⟩
    · rw [requestSegment_of_outOfUse (by rw [hseg]; exact hs)]
    · rw [requestSegment_of_busy (by rw [hseg]; exact hw.busy)]
      refine joinWaiters_of_noLimit hl ?_ ?_
      · simpa [State.part, State.setSessionState, State.seeking_session] using hj
      · simpa [State.setSessionState, hseg] using hn
  rw [hforward]
  exact refuseAddress_seeking s p j r none _

end

theorem JudgedRefused.seg_of {p : Port} {j : Judgement} {r : Reason} {x : Option Half} {s t : State}
    (h : JudgedRefused p j r x s t) {g : SegId} (ho : (s.session.get p).owned ≠ some g) :
    t.seg.get g = s.seg.get g := by
  rw [h.seg]
  simp [ho]

/-! ## Forward decisions -/

/-- The judgement of an address that is forwarded: its credit taken, nothing recorded (R63, R66). -/
def State.forwarded (s : State) (p : Port) (k : Option BankId) (n : PerBank Nat) (t : Part) (c : Decision) (g : SegId)
    (x : Addr) : Judgement :=
  { s.judgement k n (t.decided c g x) with accounts := s.creditAccounts p c }

theorem exec_forwards {p : Port} {b : Byte} {s : State} {kind : AddrKind} {d : Direction} {a : Addr} {c : Decision}
    {g : SegId} {x : Addr} (hc : s.completes p b kind d a) (hf : s.forwards p kind d a c g x) :
    ∃ k n, k.getD s.bc.active = s.judgingId p ∧
      exec (.addressByte p b) s =
        .next (forwardPart p (s.under p (s.forwarded p k n (newPart kind d a) c g x))) := by
  obtain ⟨k, n, hk, he⟩ := exec_completes hc
  exact ⟨k, n, hk, he.trans (congrArg _ (settleAddress_forwards (judgeAddress_forwards hk hf)))⟩

/-- A part that is forwarded without a violation leaves the records alone. -/
theorem Carried.keepsRecords {p : Port} {s t : State} {k : Option BankId} {n : PerBank Nat} {u : Part} {c : Decision}
    {g : SegId} {x : Addr} (h : Carried p (s.forwarded p k n u c g x) s t) : KeepsRecords s t :=
  ⟨h.queue, h.flags, h.alert⟩

theorem Carried.creditTaken {p : Port} {s t : State} {k : Option BankId} {n : PerBank Nat} {u : Part} {c : Decision}
    {g : SegId} {x : Addr} (h : Carried p (s.forwarded p k n u c g x) s t) : CreditTaken p c s t :=
  creditTaken_of h.accounts

/-- The record of an address, by the bank it is judged by. -/
theorem judgeQueue_eq {s : State} {p : Port} {k : Option BankId} (hk : k.getD s.bc.active = s.judgingId p) {j : Judgement}
    (hbank : j.bank = k) (hqueue : j.queue = s.queue) (hrec : j.part.recorded = false) (hcount : j.part.count = 0)
    (r : Reason) (o : RecordOutcome) (x : Option Half) :
    s.judgeQueue p j r o x =
      queueAfter s.queue
        (s.addressRecord p r o j.part.kind j.part.direction j.part.address j.part.decision j.part.segment x) := by
  unfold State.judgeQueue State.judgeRecord State.violationOf State.addressRecord
  rw [hrec, hqueue, State.under_part, State.under_judged, hbank, hk]
  dsimp only
  rw [hcount]
  rfl

/-- Settles O26: `exec_forwards`, then the grant of `forward_granted`. -/
theorem forwardGrantedByIdleSegment : Obligations.ForwardGrantedByIdleSegment := by
  intro p b s kind d a c g x hc hf ho hi
  obtain ⟨k, n, -, he⟩ := exec_forwards hc hf
  obtain ⟨t, ht, hcarried, hstate, howned, hwait, hseg, hcounters, hbut⟩ := forward_granted (j := s.forwarded p k n (newPart kind d a) c g x) rfl ho hi
  refine ⟨t, he.trans (congrArg _ ht), hstate, howned, hwait, hcarried.holding, ?_⟩
  rw [hcarried.part]
  exact ⟨rfl, rfl, rfl, rfl, rfl, rfl, rfl, rfl, hseg, hcounters, hbut, hcarried.creditTaken, hcarried.bank,
    hcarried.refill, hcarried.keepsRecords, hcarried.management, hcarried.port⟩

/-- Settles O27. -/
theorem forwardKeepsOwnSegment : Obligations.ForwardKeepsOwnSegment := by
  intro p b s kind d a c g x hc hf ho
  obtain ⟨k, n, -, he⟩ := exec_forwards hc hf
  obtain ⟨t, ht, hcarried, hstate, howned, hpointer, hremembered, hseg, hothers, hcounters⟩ := forward_own (j := s.forwarded p k n (newPart kind d a) c g x) rfl ho
  refine ⟨t, he.trans (congrArg _ ht), hstate, howned, hpointer, hremembered, hcarried.holding, ?_⟩
  rw [hcarried.part]
  exact ⟨rfl, hseg, hothers, hcounters, hcarried.creditTaken, hcarried.bank, hcarried.keepsRecords,
    hcarried.management, hcarried.port⟩

/-- Settles O28. -/
theorem forwardWaitsForSegment : Obligations.ForwardWaitsForSegment := by
  intro p b s kind d a c g x hc hf ho
  obtain ⟨k, n, -, he⟩ := exec_forwards hc hf
  refine ⟨fun hw hl => ?_, fun hs hn => ?_⟩
  · obtain ⟨t, ht, hcarried, hstate, howned, hwait, hseg, hcounters, hbut⟩ := forward_waits (j := s.forwarded p k n (newPart kind d a) c g x) rfl ho hw hl
    refine ⟨t, he.trans (congrArg _ ht), hstate, howned, hwait, hcarried.holding, ?_⟩
    rw [hcarried.part]
    exact ⟨rfl, rfl, hseg, hcounters, hbut, hcarried.creditTaken, hcarried.bank, hcarried.keepsRecords,
      hcarried.management, hcarried.port⟩
  · obtain ⟨t, ht, hcarried, hstate, howned, hwait, hseg, hcounters, hbut⟩ := forward_deferred (j := s.forwarded p k n (newPart kind d a) c g x) rfl ho hs hn
    refine ⟨t, he.trans (congrArg _ ht), hstate, howned, hwait, hcarried.holding, ?_⟩
    rw [hcarried.part]
    exact ⟨rfl, rfl, hseg, hcounters, hbut, hcarried.creditTaken, hcarried.bank, hcarried.keepsRecords,
      hcarried.management, hcarried.port⟩

/-- Settles O29. -/
theorem forwardRefusedBySegment : Obligations.ForwardRefusedBySegment := by
  intro p b s kind d a c g x r hc hf ho hn hr
  obtain ⟨k, n, hk, he⟩ := exec_forwards hc hf
  have hrefused := forward_refused (j := s.forwarded p k n (newPart kind d a) c g x) rfl ho hn hr
  refine ⟨_, he, hrefused.discarding, hrefused.decision, hrefused.recorded, hrefused.seg_of ho, hrefused.segCounters,
    hrefused.releasedBut g, ?_, creditTaken_of hrefused.accounts, hrefused.bank, hrefused.management, hrefused.port⟩
  rw [hrefused.queue]
  exact judgeQueue_eq hk rfl rfl rfl rfl r _ _

/-! ## Addresses refused by an entry, and violations logged -/

/-- An access that allows the direction is no fault. -/
theorem accessFault_of_allows {e : Entry} {p : Port} {d : Direction} (h : (e.access.get p).allows d = true) :
    e.accessFault p d = none := by
  have hne : e.access.get p ≠ .none := fun hn => by simp [hn, Access.allows] at h
  unfold Entry.accessFault
  rw [if_neg hne, if_pos h]

/-- The reason R59 to R63 give for an entry to refuse an address is the first fault it finds. -/
theorem addressFaults_head {s : State} {p : Port} {kind : AddrKind} {d : Direction} {a : Addr} {i : EntryIdx}
    {r : Reason} {o : Option Half} {k : Bank} (hk : s.bank.get (s.judgingId p) = k) {e : Entry}
    (he : tableGet k.entries i = e)
    (h : (r = .portDenied ∧ o = none ∧ s.deniedBy p kind a i) ∨
      (r = .direction ∧ o = none ∧ s.grantedBy p kind a i ∧ (e.access.get p).allows d = false) ∨
      (r = .noPointer ∧ o = none ∧ (s.grantedBy p kind a i ∧ (e.access.get p).allows d = true) ∧ d = .read ∧
        e.readList.isSome ∧ s.pointerFor p i = none) ∨
      (r = .readWindow ∧ (s.grantedBy p kind a i ∧ (e.access.get p).allows d = true) ∧ d = .read ∧
        e.mode = .atStart ∧ o = s.pointerFor p i ∧
        ∃ l x, e.readList = some l ∧ s.pointerFor p i = some x ∧ inList k l x = false) ∨
      (r = .noCredit ∧ o = none ∧ (s.grantedBy p kind a i ∧ (e.access.get p).allows d = true) ∧
        e.creditLimit.isSome ∧ (tableGet (s.accounts.get (s.judgingId p)) i).bucket = some 0 ∧
        (d = .read → ∀ l, e.readList = some l →
          ∃ x, s.pointerFor p i = some x ∧ (e.mode = .atStart → inList k l x = true)))) :
    (s.grantedBy p kind a i ∨ s.deniedBy p kind a i) ∧ (s.addressFaults p d i).head? = some (r, o) := by
  rw [State.addressFaults_eq, hk, he]
  rcases h with ⟨rfl, rfl, hdenied⟩ | ⟨rfl, rfl, hgranted, hdir⟩ | ⟨rfl, rfl, ⟨hgranted, hallow⟩, rfl, hlist, hptr⟩ |
    ⟨rfl, ⟨hgranted, hallow⟩, rfl, hmode, rfl, l, x, hlist, hptr, hout⟩ |
    ⟨rfl, rfl, ⟨hgranted, hallow⟩, hcredit, hbucket, hread⟩
  · have hnone := (hdenied.2 i hdenied.1).1
    rw [hk, he] at hnone
    exact ⟨.inr hdenied, by simp [Entry.accessFault, hnone]⟩
  · have hsome := hgranted.2.1
    rw [hk, he] at hsome
    exact ⟨.inl hgranted, by simp [Entry.accessFault, hsome, hdir]⟩
  · obtain ⟨l, hlist⟩ := Option.isSome_iff_exists.mp hlist
    exact ⟨.inl hgranted, by simp [accessFault_of_allows hallow, Entry.readFault, hlist, hptr]⟩
  · exact ⟨.inl hgranted, by simp [accessFault_of_allows hallow, Entry.readFault, hlist, hptr, hmode, hout]⟩
  · obtain ⟨l, hcredit⟩ := Option.isSome_iff_exists.mp hcredit
    have hreads : e.readFault k d (s.pointerFor p i) = none := by
      unfold Entry.readFault
      cases d with
      | write => rfl
      | read =>
        cases hl : e.readList with
        | none => rfl
        | some w =>
          obtain ⟨x, hx, hin⟩ := hread rfl w hl
          rw [hx]
          exact if_neg fun ⟨hm, hout⟩ => by simp [hin hm] at hout
    exact ⟨.inl hgranted, by simp [accessFault_of_allows hallow, hreads, Entry.creditFault, hcredit, hbucket]⟩

/-- Settles O25: the reason given is the first fault the entry finds, and `judgeEntry_refuses` refuses with it. -/
theorem addressRefusedByEntry : Obligations.AddressRefusedByEntry := by
  intro p b s kind d a i r o hc hl id k e usable allowed ha hr
  obtain ⟨hdecides, hfault⟩ := addressFaults_head rfl rfl hr
  obtain ⟨m, n, hm, he⟩ := exec_completes hc
  obtain ⟨claim, hclaim, hjudge⟩ := judgeAddress_byEntry (d := d) (n := n) hm hl hdecides
  rw [judgeEntry_refuses hm hclaim ha hfault] at hjudge
  have hrefused := settleAddress_refuses hjudge
  refine ⟨_, he, hrefused.discarding, hrefused.decision, hrefused.recorded, hrefused.released, hrefused.segCounters, ?_,
    fun l j => ?_, hrefused.bank, hrefused.management, hrefused.port⟩
  · rw [hrefused.queue]
    exact judgeQueue_eq hm rfl rfl rfl rfl r _ _
  · rw [hrefused.accounts]
    exact tableGet_accountsWith _ _ _ _ _ _

end Sys2Proof.Machine
end

section
/-!
PROOFS. Addresses that violate a LOG_ONLY entry, and the bytes of a 10-bit address (R31, R38, R41, R57, R60 to R64, R93).
-/

namespace Sys2Proof.Machine

/-! ## Violations logged -/

/-- What a LOG_ONLY entry makes of an address it finds violations in: they are counted, the first is recorded PASSED (R64, R93). -/
structure LoggedAddress (s : State) (p : Port) (kind : AddrKind) (d : Direction) (a : Addr) (i : EntryIdx) (r : Reason)
    (o : Option Half) (n : Nat) (j : Judgement) : Prop where
  part : j.part =
    { (newPart kind d a).decided (.entry i) (tableGet (s.bank.get (s.judgingId p)).entries i).segment
        ((tableGet (s.bank.get (s.judgingId p)).entries i).target.getD
          (tableGet (s.bank.get (s.judgingId p)).entries i).matchAddr) with
      recorded := true }
  queue : j.queue =
    queueAfter s.queue
      (s.addressRecord p r .passed kind d a (some (.entry i))
        (some (tableGet (s.bank.get (s.judgingId p)).entries i).segment) o)
  accounts : j.accounts = accountsWith s.accounts (s.judgingId p) i
    (.charged (tableGet (s.bank.get (s.judgingId p)).entries i).creditLimit n)

section

variable {p : Port} {b : Byte} {s : State} {kind : AddrKind} {d : Direction} {a : Addr} {i : EntryIdx} {r : Reason}
  {o : Option Half}

theorem exec_logs {rest : List (Reason × Option Half)} (hc : s.completes p b kind d a) (hl : s.logged p kind d a i)
    (hx : s.addressFaults p d i = (r, o) :: rest) :
    ∃ j, LoggedAddress s p kind d a i r o (rest.length + 1) j ∧
      exec (.addressByte p b) s = .next (forwardPart p (s.under p j)) := by
  obtain ⟨hlooked, hdecides, haction, -⟩ := hl
  obtain ⟨k, n, hk, he⟩ := exec_completes hc
  obtain ⟨claim, hclaim, hjudge⟩ := judgeAddress_byEntry (d := d) (n := n) hk hlooked hdecides
  obtain ⟨j, hlogged, hsteps⟩ := judgeEntry_logs (n := n) (t := newPart kind d a) hk hclaim haction
  rw [newPart_direction, hx] at hlogged hsteps
  refine ⟨_, ⟨?_, ?_, rfl⟩, he.trans (congrArg _ (settleAddress_forwards (hjudge.trans hsteps)))⟩
  · show j.part = _
    rw [hlogged.part]
    simp [State.decidedBy]
  · show j.queue = _
    rw [hlogged.queue]
    exact judgeQueue_eq hk rfl rfl rfl rfl r _ _

theorem LoggedAddress.counted {n : Nat} {j : Judgement} (h : LoggedAddress s p kind d a i r o n j) {t : State}
    (ht : t.accounts = j.accounts) : AddressCounted p i n s t := by
  intro l m
  rw [ht, h.accounts, tableGet_accountsWith]
  by_cases hlm : l = s.judgingId p ∧ m = i
  · obtain ⟨rfl, rfl⟩ := hlm
    rfl
  · rw [if_neg hlm, if_neg hlm]

theorem LoggedAddress.segment {n : Nat} {j : Judgement} (h : LoggedAddress s p kind d a i r o n j) :
    j.part.segment = some (tableGet (s.bank.get (s.judgingId p)).entries i).segment := by
  rw [h.part]
  rfl

theorem LoggedAddress.recorded {n : Nat} {j : Judgement} (h : LoggedAddress s p kind d a i r o n j) :
    j.part.recorded = true := by
  rw [h.part]

end

/-- A part that has made its record makes no second one when it is refused (R26). -/
theorem JudgedRefused.queue_of_recorded {p : Port} {j : Judgement} {r : Reason} {x : Option Half} {s t : State}
    (h : JudgedRefused p j r x s t) (hr : j.part.recorded = true) : t.queue = j.queue := by
  rw [h.queue]
  exact if_pos hr

/-- Settles O30: `exec_logs`, then what the segment answers, as for a part without a violation. -/
theorem logOnlyAddressPasses : Obligations.LogOnlyAddressPasses := by
  intro p b s kind d a i r o rest hc hl hx e g x noted goes
  obtain ⟨j, hj, he⟩ := exec_logs hc hl hx
  have hnoted : ∀ t, Carried p j s t → noted t := fun t h =>
    have hpart := h.part.trans hj.part
    ⟨congrArg Part.recorded hpart, congrArg Part.address hpart, congrArg Part.kind hpart, congrArg Part.direction hpart,
      h.queue.trans hj.queue, hj.counted h.accounts, h.bank, h.refill, h.portCounters, h.management, h.port⟩
  have hgoes : ∀ t, Carried p j s t → goes t := fun t h =>
    have hpart := h.part.trans hj.part
    ⟨congrArg Part.decision hpart, congrArg Part.segment hpart, h.holding⟩
  have htarget : j.part.bytes = targetBytes kind d x := by rw [hj.part]; rfl
  refine ⟨fun ho hi => ?granted, fun ho => ?own, fun ho => ⟨fun hw hlim => ?waits, fun hs hn => ?deferred⟩,
    fun y ho hn hr => ?refused⟩
  case granted =>
    obtain ⟨t, ht, hcarried, hstate, howned, -, hseg, hcounters, hbut⟩ := forward_granted hj.segment ho hi
    rw [htarget] at hseg
    refine ⟨t, he.trans (congrArg _ ht), hnoted t hcarried, hgoes t hcarried, hstate, howned, ?_, hseg, hcounters, hbut⟩
    rw [hcarried.part, hj.part]
    rfl
  case own =>
    obtain ⟨t, ht, hcarried, hstate, howned, -, -, hseg, hothers, hcounters⟩ := forward_own hj.segment ho
    rw [htarget] at hseg
    exact ⟨t, he.trans (congrArg _ ht), hnoted t hcarried, hgoes t hcarried, hstate, howned, hseg, hothers, hcounters⟩
  case waits =>
    obtain ⟨t, ht, hcarried, hstate, howned, hwait, hseg, hcounters, hbut⟩ := forward_waits hj.segment ho hw hlim
    exact ⟨t, he.trans (congrArg _ ht), hnoted t hcarried, hgoes t hcarried, hstate, howned, hwait, hseg, hcounters, hbut⟩
  case deferred =>
    obtain ⟨t, ht, hcarried, hstate, howned, hwait, hseg, hcounters, hbut⟩ := forward_deferred hj.segment ho hs hn
    exact ⟨t, he.trans (congrArg _ ht), hnoted t hcarried, hgoes t hcarried, hstate, howned, hwait, hseg, hcounters, hbut⟩
  case refused =>
    have hrefused := forward_refused hj.segment ho hn hr
    obtain ⟨haddress, hkind, hdirection⟩ := hrefused.address
    rw [hj.part] at haddress hkind hdirection
    exact ⟨_, he, ⟨hrefused.recorded, haddress, hkind, hdirection,
        (hrefused.queue_of_recorded hj.recorded).trans hj.queue, hj.counted hrefused.accounts, hrefused.bank,
        hrefused.refill, hrefused.portCounters, hrefused.management, hrefused.port⟩,
      hrefused.discarding, hrefused.decision, hrefused.seg_of ho, hrefused.segCounters, hrefused.releasedBut g⟩

/-! ## The bytes of a 10-bit address -/

theorem firstByteAnswer_iff (k : Bank) (p : Port) (hi : BitVec 2) :
    firstByteAnswer k p hi = true ↔
      (∃ i, (tableGet k.entries i).valid = true ∧ (tableGet k.entries i).kind = .ten ∧
        addrHigh (tableGet k.entries i).matchAddr = hi ∧ (tableGet k.entries i).access.get p ≠ .none) ∨
      k.header.defaultAction = .forward := by
  unfold firstByteAnswer
  rw [Bool.or_eq_true, decide_eq_true_eq]
  refine or_congr_left ?_
  have hfound := not_congr (findEntry_none k fun e =>
    e.valid && e.kind = .ten && addrHigh e.matchAddr = hi && e.access.get p ≠ .none)
  rw [← Ne.eq_def, Option.ne_none_iff_isSome] at hfound
  rw [hfound, not_forall]
  simp [and_assoc]

/-- The state in which the first byte of a 10-bit write is answered. -/
def State.firstByte (s : State) (p : Port) (b : Byte) : State :=
  setAddress p .ten (addr10 (highBits b) 0) (beginPart p b s)

section

variable {s : State} {p : Port} {b : Byte}

theorem State.firstByte_eq :
    s.firstByte p b =
      { s with
        session := s.session.set p
          { s.session.get p with
            bank := some (s.judgingId p), part := newPart .ten (byteDirection b) (addr10 (highBits b) 0) },
        bc := { s.bc with holders := s.capturedHolders p } } := by
  unfold State.firstByte
  rw [beginPart_eq]
  ext1
  case session => simp [setAddress, State.updPart, newPart]
  all_goals rfl

theorem State.firstByte_judged : (s.firstByte p b).judged p = s.bank.get (s.judgingId p) := by
  rw [State.firstByte_eq]
  simp [State.judged, State.judgedId]

/-- A first byte that an entry may complete is held, and nothing else is answered for it (R38, R57). -/
theorem tenBitWriteFirst_answered (h : firstByteAnswer (s.bank.get (s.judgingId p)) p (highBits b) = true) :
    tenBitWriteFirst p b (beginPart p b s) =
      { s with
        session := s.session.set p
          { s.session.get p with
            bank := some (s.judgingId p),
            part :=
              { newPart .ten (byteDirection b) (addr10 (highBits b) 0) with held := some b } },
        upi := s.upi.set p { s.upi.get p with ninth := some .ack }, bc := { s.bc with holders := s.capturedHolders p } } := by
  have hanswer : tenBitWriteFirst p b (beginPart p b s) =
      driveNinth p .ack ((s.firstByte p b).updPart p fun t => { t with held := some b }) := by
    unfold tenBitWriteFirst
    refine if_pos ?_
    show firstByteAnswer ((s.firstByte p b).judged p) p (highBits b) = true
    rw [State.firstByte_judged, h]
  rw [hanswer, State.firstByte_eq]
  ext1
  case session => simp [driveNinth, State.updPart]
  all_goals rfl

/-- The state in which the first byte of a 10-bit write is refused. -/
def State.firstByteSeeking (s : State) (p : Port) (b : Byte) : State :=
  { s with
    session := s.session.set p
      { (s.session.get p).unseated with
        bank := some (s.judgingId p), part := newPart .ten (byteDirection b) (addr10 (highBits b) 0) },
    seg := s.segReleased p, bc := { s.bc with holders := s.capturedHolders p } }

theorem Session.unseated_begun (e : Session) (k : Option BankId) (t : Part) :
    ({ e with bank := k, part := t } : Session).unseated = { e.unseated with bank := k, part := t } := by
  unfold Session.unseated
  dsimp only
  split <;> rfl

theorem releaseSegment_firstByte : releaseSegment p (s.firstByte p b) = s.firstByteSeeking p b := by
  rw [releaseSegment_eq, State.firstByte_eq]
  ext1
  case session =>
    dsimp only
    rw [PerPort.get_set, if_pos rfl, PerPort.set_set, Session.unseated_begun]
    rfl
  case seg => exact PerSeg.ext_get fun g => by simp [State.firstByteSeeking]
  all_goals rfl

/-- A first byte that no entry may complete is refused; no hold stands while it is answered (R38, R57). -/
theorem tenBitWriteFirst_refused (h : firstByteAnswer (s.bank.get (s.judgingId p)) p (highBits b) = false)
    (hhold : (s.upi.get p).hold = false) (hstretch : (s.session.get p).stretch = none) :
    JudgedRefused p (s.firstJudgement p .ten (byteDirection b) (addr10 (highBits b) 0)) .noEntry none s
      (tenBitWriteFirst p b (beginPart p b s)) := by
  have hrefusal : tenBitWriteFirst p b (beginPart p b s) = refuseAddress p .noEntry none (s.firstByteSeeking p b) := by
    rw [← releaseSegment_firstByte]
    unfold tenBitWriteFirst
    refine if_neg ?_
    show ¬firstByteAnswer ((s.firstByte p b).judged p) p (highBits b) = true
    rw [State.firstByte_judged, h]
    decide
  have hsession : (s.firstByteSeeking p b).session.get p =
      { (s.session.get p).unseated with
        bank := some (s.judgingId p), part := newPart .ten (byteDirection b) (addr10 (highBits b) 0) } := by
    simp [State.firstByteSeeking]
  have hpart : (s.firstByteSeeking p b).part p = newPart .ten (byteDirection b) (addr10 (highBits b) 0) := by
    rw [State.part, hsession]
  have hqueue : (s.firstByteSeeking p b).queueWith p .noEntry .refused none =
      s.judgeQueue p (s.firstJudgement p .ten (byteDirection b) (addr10 (highBits b) 0)) .noEntry .refused none := by
    rw [← State.under_queueWith]
    refine queueWith_congr _ _ _ _ (s.under p _) _ ?_ rfl ?_
    · rw [hpart, State.under_part]
      rfl
    · rw [State.under_judged, State.judged, State.judgedId, hsession]
      rfl
  have hline : ((s.firstByteSeeking p b).upi.get p).hold = false := hhold
  obtain ⟨f, a, he⟩ := refuseAddress_eq p .noEntry none (s.firstByteSeeking p b)
  rw [hrefusal, he, hqueue, hsession, hpart, hline]
  constructor
  case discarding => exact discarding_of (by simp) (by simp) (by simp) (by simp [hstretch]) (by simp [State.part]) (by simp [State.part, State.firstByteSeeking])
  case decision | recorded | address => simp [State.part, State.firstJudgement]
  case port => simp [KeepsPort, State.firstByteSeeking]
  case management => exact ⟨rfl, rfl, rfl, rfl, rfl, rfl, rfl, rfl, rfl, rfl, rfl⟩
  all_goals rfl

/-- A read of a 10-bit address that is not remembered is refused inside its hold (R41). -/
theorem tenBitRead_refused
    (hr : ∀ r, (s.session.get p).remembered = some r → addrHigh r.address ≠ highBits b) :
    JudgedRefused p (s.firstJudgement p .ten (byteDirection b) (addr10 (highBits b) 0)) .noEntry none s
      (tenBitRead p b (beginPart p b s)) := by
  have hrefusal : tenBitRead p b (beginPart p b s) =
      refuseFirstByte p (s.under p (s.firstJudgement p .ten (byteDirection b) (addr10 (highBits b) 0))) := by
    unfold tenBitRead
    rw [beginPart_remembered]
    simp only [beginHold_setAddress]
    cases hm : (s.session.get p).remembered with
    | none => rfl
    | some r => exact if_neg (hr r hm)
  rw [hrefusal]
  exact refuseAddress_released s p _ _ _

end

/-- Settles O31, by the answer to the first byte. -/
theorem tenBitFirstByteAnswered : Obligations.TenBitFirstByteAnswered := by
  intro p b s hp ha hh ht k yes
  have hyes : firstByteAnswer k p (highBits b) = true ↔ yes := firstByteAnswer_iff k p (highBits b)
  have hexec := exec_firstAddressByte (b := b) hp ha hh
  refine ⟨fun hd hy => ?_, ?_, fun r c g x hd hr hi ho hf => ?_⟩
  · rw [hexec, firstAddressByte_tenWrite ht hd, tenBitWriteFirst_answered (hyes.mpr hy), hd]
    refine ⟨_, rfl, ?_⟩
    simp [State.part, KeepsSegs, KeepsPolicy, KeepsRecords, KeepsManagement, KeepsPort, ha, newPart, heldAddress, noPart,
      addr10]
  · intro h
    obtain ⟨t, he, hrefused⟩ : ∃ t, exec (.addressByte p b) s = .next t ∧
        JudgedRefused p (s.firstJudgement p .ten (byteDirection b) (addr10 (highBits b) 0)) .noEntry none s t := by
      rcases h with ⟨hd, hn, hhold, hstretch⟩ | ⟨hd, hr⟩
      · rw [hexec, firstAddressByte_tenWrite ht hd]
        exact ⟨_, rfl, tenBitWriteFirst_refused (by simpa using mt hyes.mp hn) hhold hstretch⟩
      · rw [hexec, firstAddressByte_tenRead ht hd]
        exact ⟨_, rfl, tenBitRead_refused hr⟩
    refine ⟨t, he, hrefused.discarding, hrefused.decision, hrefused.released, hrefused.segCounters, ?_,
      ⟨hrefused.bank, hrefused.accounts, hrefused.refill, hrefused.portCounters⟩, hrefused.management, hrefused.port⟩
    rw [hrefused.queue]
    exact judgeQueue_eq (k := some (s.judgingId p)) rfl rfl rfl rfl rfl _ _ _
  · obtain ⟨m, n, -, he⟩ := exec_forwards (b := b) ⟨hp, ha, .inr (.inr ⟨rfl, rfl, hd, hh, ht, r, hr, hi, rfl⟩)⟩ hf
    obtain ⟨t, ht, hcarried, hstate, -, -, -, hseg, hothers, hcounters⟩ := forward_own (j := s.forwarded p m n (newPart .ten .read r.address) c g x) rfl ho
    refine ⟨t, he.trans (congrArg _ ht), hstate, hcarried.holding, ?_⟩
    rw [hcarried.part]
    exact ⟨rfl, rfl, rfl, hseg, hothers, hcounters, hcarried.creditTaken, hcarried.keepsRecords, hcarried.management,
      hcarried.port⟩

end Sys2Proof.Machine
end

section
/-!
PROOFS. A 10-bit write address judged at its second byte (R31, R38, R60, R61, R63).
-/

namespace Sys2Proof.Machine

theorem addrHigh_addr10 (hi : BitVec 2) (lo : Byte) : addrHigh (hi ++ lo) = hi :=
  BitVec.extractLsb'_append_eq_left

theorem addrLow_addr10 (hi : BitVec 2) (lo : Byte) : addrLow (hi ++ lo) = lo :=
  BitVec.extractLsb'_append_eq_right

/-- A port that owns no segment leaves every segment but the one it asks for as it was. -/
theorem ReleasedBut.keepsOtherSegs {g : SegId} {p : Port} {s t : State} (h : ReleasedBut g p s t)
    (ho : (s.session.get p).owned = none) : KeepsOtherSegs g s t := fun l hl => by
  obtain ⟨hcounters, hseg⟩ := h l hl
  rw [ho] at hseg
  exact ⟨by simpa using hseg, hcounters⟩

/-- Settles O32: the second byte completes the address, which is then judged as any other. -/
theorem tenBitAddressJudged : Obligations.TenBitAddressJudged := by
  intro p first b s hp ha hh a k driven
  have hc : s.completes p b .ten .write a := ⟨hp, ha, .inr (.inl ⟨rfl, rfl, first, hh, rfl⟩)⟩
  have hdriven : ∀ c g x, s.forwards p .ten .write a c g x → (s.session.get p).owned = none →
      (s.seg.get g).state = .idle → driven c g (addrHigh x) (addrLow x) := by
    intro c g x hf ho hi
    obtain ⟨m, n, -, he⟩ := exec_forwards hc hf
    obtain ⟨t, ht, hcarried, hstate, howned, -, hseg, -, hbut⟩ := forward_granted
      (j := s.forwarded p m n (newPart .ten .write a) c g x) (p := p) rfl (by rw [ho]; nofun) hi
    refine ⟨t, he.trans (congrArg _ ht), hstate, howned, hcarried.holding, ?_⟩
    rw [hcarried.part, hseg]
    exact ⟨rfl, rfl, rfl, hbut.keepsOtherSegs ho, hcarried.creditTaken, hcarried.bank, hcarried.keepsRecords,
      hcarried.management, hcarried.port⟩
  have hlooked : lookedUp .ten a := nofun
  refine ⟨fun i hpass ho hi => ?_, fun hnone => ⟨fun hdefault ho hi => ?_, fun hdeny => ?_⟩⟩
  · exact hdriven _ _ _ (.inr (.inr ⟨hlooked, i, hpass, rfl, rfl, rfl⟩)) ho hi
  · have := hdriven _ _ _ (.inr (.inl ⟨hlooked, hnone, hdefault, rfl, rfl, rfl⟩)) ho hi
    rwa [addrHigh_addr10, addrLow_addr10] at this
  · obtain ⟨m, n, hm, he⟩ := exec_completes hc
    have hrefused := settleAddress_refuses (judgeAddress_deny (d := .write) (n := n) hm hlooked hnone hdeny)
    refine ⟨_, he, hrefused.discarding, hrefused.released, ?_,
      ⟨hrefused.bank, hrefused.accounts, hrefused.refill, hrefused.portCounters⟩, hrefused.management, hrefused.port⟩
    rw [hrefused.queue]
    exact judgeQueue_eq hm rfl rfl rfl rfl _ _ _

end Sys2Proof.Machine
end

section
/-!
PROOFS. Parts to the management address (R29, R43, R46, R53, R165).
-/

namespace Sys2Proof.Machine

/-- A read of the response slot presents the next byte of its copy, and counts it (R46, R165). -/
theorem presentSlotByte_cons {p : Port} {b : Byte} {rest : List Byte} {s : State} (h : s.readback.get p = b :: rest) :
    presentSlotByte p s =
      { s with
        readback := s.readback.set p rest,
        upi := s.upi.set p { s.upi.get p with phase := .send, shift := some b },
        session := s.session.set p
          { s.session.get p with part := { s.part p with count := satInc (s.part p).count } } } := by
  unfold presentSlotByte
  rw [h]
  rfl

/-- The session of a port whose part to the management address has been answered (R29, R43, R53). -/
def State.managed (s : State) (p : Port) (j : Judgement) (c : SessionState) (t : Part) : Session :=
  { (s.session.get p).unseated with
    state := c, bank := j.bank, part := { t with decision := some .management }, stretch := none,
    abandon := some (s.limits p).abandon }

/-- The state after a part to the management address that a port with management enabled acknowledges. -/
def State.inManagement (s : State) (p : Port) (j : Judgement) : State :=
  { s.seeking p j with
    session := s.session.set p (s.managed p j .mgmt j.part),
    upi := s.upi.set p { s.upi.get p with hold := false, ninth := some .ack } }

section

variable {s : State} {p : Port} {j : Judgement} {b : Byte}

theorem enterManagement_answer :
    ((releaseWith p .ack (releaseSegment p (s.under p j))).updPart p
      fun t => { t with decision := some .management }).setSessionState p .mgmt = s.inManagement p j := by
  rw [releaseSegment_under, releaseWith_of_held (by rw [State.seeking_upi])]
  ext1
  case session =>
    simp [State.updPart, State.setSessionState, State.seeking_session, State.inManagement, State.managed, State.limits]
    simp [State.seeking, State.under]
  case upi => simp [State.updPart, State.setSessionState, State.seeking_upi, State.inManagement]; simp [State.seeking, State.under]
  all_goals rfl

theorem enterManagement_write (hd : byteDirection b = .write) :
    enterManagement p b (s.under p j) =
      { s.inManagement p j with
        parser := s.parser.set p { freshParser with running := crc8Byte crc8Init b } } := by
  unfold enterManagement
  simp only [enterManagement_answer, hd]
  rfl

theorem enterManagement_read (hd : byteDirection b = .read) :
    enterManagement p b (s.under p j) =
      { s.inManagement p j with
        readback := s.readback.set p (slotFrame b (s.slot.get p)).tail,
        upi := s.upi.set p
          { s.upi.get p with
            hold := false, ninth := some .ack, phase := .send, shift := some (Status.code (s.slot.get p).status) },
        session := s.session.set p
          (s.managed p j .mgmt { j.part with count := satInc j.part.count }) } := by
  unfold enterManagement
  simp only [enterManagement_answer, hd]
  rw [presentSlotByte_cons (b := Status.code (s.slot.get p).status) (rest := (slotFrame b (s.slot.get p)).tail)
    (by simp [State.setReadback, State.inManagement]; rfl)]
  ext1
  case session => simp [State.setReadback, State.inManagement, State.managed, State.part]
  case upi => simp [State.setReadback, State.inManagement]
  case readback => simp [State.setReadback, State.inManagement]; rfl
  all_goals rfl

theorem discardManagement_under :
    discardManagement p (s.under p j) =
      { s.seeking p j with
        session := s.session.set p { s.managed p j .discard { j.part with held := none } with wait := none },
        upi := s.upi.set p
          { phase := answerPhase j.part.direction, hold := false,
            shift := discardShift s.settings.filler j.part.direction, ninth := some .nack } } := by
  unfold discardManagement
  rw [releaseSegment_under, enterDiscard_eq, releaseWith_of_held (by simp [State.updPart, State.seeking_upi])]
  ext1
  case session =>
    simp [State.updPart, State.seeking_session, State.managed, State.limits, State.part]
    simp [State.seeking, State.under]
  case upi => simp [State.updPart, State.seeking_upi, State.part, State.seeking_session]; simp [State.seeking, State.under]
  all_goals rfl

end

theorem sevenBitAddress_management {p : Port} {b : Byte} {s : State} (hm : addr7 (addressBits b) = s.managementAddress) :
    sevenBitAddress p b (beginPart p b s) =
      if s.straps.mgmten.get p = true then
        enterManagement p b (s.under p (s.firstJudgement p .seven (byteDirection b) (addr7 (addressBits b))))
      else discardManagement p (s.under p (s.firstJudgement p .seven (byteDirection b) (addr7 (addressBits b)))) := by
  unfold sevenBitAddress
  simp only [beginHold_setAddress]
  exact if_pos hm

/-- Settles O23. -/
theorem managementAddressTaken : Obligations.ManagementAddressTaken := by
  intro p b s hp ha hh ht hm
  rw [exec_firstAddressByte hp ha hh, firstAddressByte_seven ht, sevenBitAddress_management hm]
  have hreleased : Released p s (s.seeking p (s.firstJudgement p .seven (byteDirection b) (addr7 (addressBits b)))) :=
    fun g => s.get_segReleased p g
  cases hen : s.straps.mgmten.get p with
  | false =>
    rw [if_neg (by decide), discardManagement_under]
    refine ⟨_, rfl, hreleased, ?_, ⟨rfl, rfl, rfl⟩, ⟨rfl, rfl, rfl, rfl⟩, rfl, rfl, rfl, rfl, ?_, ?_,
      fun _ => ⟨discarding_of ?_ ?_ ?_ ?_ ?_ ?_, rfl, rfl⟩, nofun⟩ <;>
    simp [State.managed, State.part]
    rfl
  | true =>
    rw [if_pos rfl]
    cases hd : byteDirection b with
    | write =>
      rw [enterManagement_write hd]
      rw [hd] at hreleased
      refine ⟨_, rfl, hreleased, ?_, ⟨rfl, rfl, rfl⟩, ⟨rfl, rfl, rfl, rfl⟩, rfl, rfl, rfl, rfl, ?_, ?_, nofun,
        fun _ => ⟨?_, ?_, fun _ => ⟨?_, ?_, ?_⟩, nofun⟩⟩ <;>
      simp [State.inManagement, State.managed, State.part, freshParser, crc8, crc8Init]
    | read =>
      rw [enterManagement_read hd]
      rw [hd] at hreleased
      refine ⟨_, rfl, hreleased, ?_, ⟨rfl, rfl, rfl⟩, ⟨rfl, rfl, rfl, rfl⟩, rfl, rfl, rfl, rfl, ?_, ?_, nofun,
        fun _ => ⟨?_, ?_, nofun, fun _ => ⟨?_, ?_, ?_, ?_, ?_⟩⟩⟩ <;>
      simp [State.inManagement, State.managed, State.part, slotFrame]
      rfl

end Sys2Proof.Machine
end

section
/-!
PROOFS. What the judgement of an address leaves of its part and its bank (R26, R28, R71).
-/

namespace Sys2Proof.Machine

/-- What an address byte makes of a part that its judgement does not change (R26, R71). -/
def Part.measure (t : Part) : Direction × Byte × List Byte × Nat := (t.direction, t.count, t.sub, t.length)

/-- The captured bank and the measure of a port's part stay, no held byte appears, and neither the banks, the Bank Controller nor
the other port change. -/
structure PartKept (p : Port) (s t : State) : Prop where
  captured : (t.session.get p).bank = (s.session.get p).bank
  measure : (t.part p).measure = (s.part p).measure
  held : (s.part p).held = none → (t.part p).held = none
  bank : t.bank = s.bank
  bc : t.bc = s.bc
  port : KeepsPort p.other s t

namespace PartKept

variable {p : Port} {s t u : State}

theorem refl (p : Port) (s : State) : PartKept p s s := ⟨rfl, rfl, id, rfl, rfl, rfl, rfl⟩

theorem trans (h : PartKept p s t) (h' : PartKept p t u) : PartKept p s u where
  captured := h'.captured.trans h.captured
  measure := h'.measure.trans h.measure
  held hn := h'.held (h.held hn)
  bank := h'.bank.trans h.bank
  bc := h'.bc.trans h.bc
  port := ⟨h'.port.1.trans h.port.1, h'.port.2.trans h.port.2⟩

/-- What touches neither the sessions, the lines, the banks nor the Bank Controller. -/
theorem of_untouched (hsession : t.session = s.session) (hupi : t.upi = s.upi) (hbank : t.bank = s.bank)
    (hbc : t.bc = s.bc) : PartKept p s t where
  captured := by rw [hsession]
  measure := by rw [State.part, State.part, hsession]
  held hn := by rwa [State.part, hsession]
  bank := hbank
  bc := hbc
  port := ⟨by rw [hsession], by rw [hupi]⟩

/-- What changes one session and its line, and neither its bank nor the measure of its part. -/
theorem of_session {e : Session} {l : Upi} (hsession : t.session = s.session.set p e) (hupi : t.upi = s.upi.set p l)
    (hbank : t.bank = s.bank) (hbc : t.bc = s.bc) (hcaptured : e.bank = (s.session.get p).bank)
    (hmeasure : e.part.measure = (s.part p).measure) (hheld : (s.part p).held = none → e.part.held = none) :
    PartKept p s t := by
  have hget : t.session.get p = e := by simp [hsession]
  constructor
  case captured => rw [hget, hcaptured]
  case measure => rw [State.part, hget, hmeasure]
  case held => exact fun hn => by rw [State.part, hget, hheld hn]
  case bank => exact hbank
  case bc => exact hbc
  case port => simp [KeepsPort, hsession, hupi]

/-- What changes one session, and neither its bank nor the measure of its part. -/
theorem of_sessionOnly {e : Session} (hsession : t.session = s.session.set p e) (hupi : t.upi = s.upi)
    (hbank : t.bank = s.bank) (hbc : t.bc = s.bc) (hcaptured : e.bank = (s.session.get p).bank)
    (hmeasure : e.part.measure = (s.part p).measure) (hheld : (s.part p).held = none → e.part.held = none) :
    PartKept p s t :=
  of_session hsession (hupi.trans (PerPort.set_get s.upi p).symm) hbank hbc hcaptured hmeasure hheld

end PartKept

/-! ## The operations of a judgement -/

section

variable (p : Port) (g : SegId) (s : State)

theorem setDecision_keepsPart (c : Decision) (x : Addr) : PartKept p s (setDecision p c g x s) :=
  .of_sessionOnly (e := { s.session.get p with part := (s.part p).decided c g x }) rfl rfl rfl rfl rfl rfl id

theorem countViolation_keepsPart (i : EntryIdx) : PartKept p s (countViolation p i s) :=
  .of_untouched rfl rfl rfl rfl

theorem makeRecord_keepsPart (r : Reason) (o : RecordOutcome) (x : Option Half) :
    PartKept p s (makeRecord p r o x s) := by
  obtain ⟨f, a, h⟩ := makeRecord_eq p r o x s
  rw [h]
  exact .of_sessionOnly rfl rfl rfl rfl rfl rfl id

theorem refuseAddress_keepsPart (r : Reason) (x : Option Half) : PartKept p s (refuseAddress p r x s) := by
  obtain ⟨f, a, h⟩ := refuseAddress_eq p r x s
  rw [h]
  exact .of_session rfl rfl rfl rfl rfl rfl fun _ => rfl

theorem releaseSegment_keepsPart : PartKept p s (releaseSegment p s) := by
  rw [releaseSegment_eq]
  refine .of_sessionOnly rfl rfl rfl rfl ?_ ?_ fun h => ?_
  · simp
  · simp [State.part]
  · simpa [State.part] using h

theorem grantSegment_keepsPart : PartKept p s (grantSegment p g s) := by
  rw [grantSegment_eq]
  exact .of_sessionOnly rfl rfl rfl rfl rfl rfl id

theorem setSessionState_keepsPart (c : SessionState) : PartKept p s (s.setSessionState p c) :=
  .of_sessionOnly rfl rfl rfl rfl rfl rfl id

theorem withdraw_keepsPart : PartKept p s (withdraw p s) := by
  unfold withdraw
  split
  · exact .of_untouched rfl rfl rfl rfl
  · exact .refl p s

theorem joinWaiters_keepsPart : PartKept p s (joinWaiters p g s) := by
  unfold joinWaiters
  split
  · have hjoined : PartKept p s (s.updSeg g fun c => { c with waiters := c.waiters ++ [p] }) :=
      .of_untouched rfl rfl rfl rfl
    exact (hjoined.trans (withdraw_keepsPart p _)).trans (refuseAddress_keepsPart p _ _ _)
  · exact .of_sessionOnly rfl rfl rfl rfl rfl rfl id

theorem requestSegment_keepsPart : PartKept p s (requestSegment p g s) := by
  have hwait := setSessionState_keepsPart p s .grantWait
  unfold requestSegment
  dsimp only
  split
  case h_1 => exact hwait.trans (grantSegment_keepsPart p g _)
  case h_2 =>
    split
    · exact hwait.trans (joinWaiters_keepsPart p g _)
    · exact hwait.trans (.of_untouched rfl rfl rfl rfl)
  case h_3 => exact hwait.trans (joinWaiters_keepsPart p g _)
  case h_4 | h_5 => exact hwait.trans (refuseAddress_keepsPart p _ _ _)

theorem forwardPart_keepsPart : PartKept p s (forwardPart p s) := by
  cases hg : (s.part p).segment with
  | none =>
    unfold forwardPart
    rw [hg]
    exact .refl p s
  | some g =>
    by_cases ho : (s.session.get p).owned = some g
    · rw [forwardPart_own hg ho]
      exact .of_sessionOnly rfl rfl rfl rfl rfl rfl id
    · rw [forwardPart_requests hg ho]
      exact (releaseSegment_keepsPart p s).trans (requestSegment_keepsPart p g _)

/-! ## The judgement -/

theorem andThen_keepsPart {x : Judged} {f : State → Judged} (h : PartKept p s x.1)
    (h' : ∀ t, PartKept p t (f t).1) : PartKept p s (andThen x f).1 := by
  unfold andThen
  split
  · exact h
  · exact h.trans (h' _)

variable (i : EntryIdx) (e : Entry)

theorem addressViolation_keepsPart (r : Reason) (x : Option Half) : PartKept p s (addressViolation p i e r x s).1 := by
  have hcounted := countViolation_keepsPart p s i
  unfold addressViolation
  cases e.action with
  | refuse => exact hcounted
  | logOnly => exact hcounted.trans (makeRecord_keepsPart p _ _ _ _)

theorem faultStep_keepsPart (x : Option (Reason × Option Half)) : PartKept p s (faultStep p i e x s).1 := by
  cases x with
  | none => exact .refl p s
  | some x => exact addressViolation_keepsPart p s i e _ _

theorem accessStep_keepsPart (claim : Bool) : PartKept p s (accessStep p i e claim s).1 := by
  unfold accessStep
  split
  · exact addressViolation_keepsPart p s i e _ _
  · split
    · exact .refl p s
    · exact addressViolation_keepsPart p s i e _ _

theorem readListStep_keepsPart : PartKept p s (readListStep p i e s).1 := by
  rw [readListStep_eq]
  exact faultStep_keepsPart p s i e _

theorem creditStep_keepsPart : PartKept p s (creditStep p i e s).1 := by
  cases hx : e.creditFault (tableGet (s.accounts.get (s.judgedId p)) i).bucket with
  | none =>
    rw [creditStep_of_pass hx]
    exact .of_untouched rfl rfl rfl rfl
  | some x =>
    rw [creditStep_of_fault hx]
    exact faultStep_keepsPart p s i e _

theorem judgeEntry_keepsPart (claim : Bool) : PartKept p s (judgeEntry p i claim s).1 := by
  unfold judgeEntry
  refine andThen_keepsPart p s (andThen_keepsPart p s ?_ fun t => readListStep_keepsPart p t i _) fun t =>
    creditStep_keepsPart p t i _
  exact (setDecision_keepsPart p _ s _ _).trans (accessStep_keepsPart p _ i _ claim)

theorem judgeAddress_keepsPart : PartKept p s (judgeAddress p s).1 := by
  unfold judgeAddress
  dsimp only
  split
  · split
    · exact setDecision_keepsPart p _ s _ _
    · exact .refl p s
  · split
    · exact .refl p s
    · split
      · exact judgeEntry_keepsPart p s _ _
      · split
        · exact judgeEntry_keepsPart p s _ _
        · split
          · exact setDecision_keepsPart p _ s _ _
          · exact .refl p s

theorem settleAddress_keepsPart : PartKept p s (settleAddress p s) := by
  have hjudged := judgeAddress_keepsPart p s
  unfold settleAddress
  split
  · rename_i t r x h
    rw [h] at hjudged
    exact (hjudged.trans (releaseSegment_keepsPart p t)).trans (refuseAddress_keepsPart p _ r x)
  · rename_i t h
    rw [h] at hjudged
    exact hjudged.trans (forwardPart_keepsPart p t)

theorem refuseFirstByte_keepsPart : PartKept p s (refuseFirstByte p s) :=
  (releaseSegment_keepsPart p s).trans (refuseAddress_keepsPart p _ _ _)

theorem setAddress_keepsPart (kind : AddrKind) (a : Addr) : PartKept p s (setAddress p kind a s) :=
  .of_sessionOnly rfl rfl rfl rfl rfl rfl id

theorem beginHold_keepsPart : PartKept p s (beginHold p s) := by
  rw [beginHold_eq]
  exact .of_session rfl rfl rfl rfl rfl rfl id

end

/-! ## The bank captured -/

/-- The first address byte of a session has captured the active bank, a later one nothing, and the part is new, with a count of
bytes already presented and a held byte (R26, R28, R71). -/
structure Captured (p : Port) (b : Byte) (n : Byte) (h : Option Byte) (s t : State) : Prop where
  captured : (t.session.get p).bank = some (s.judgingId p)
  measure : (t.part p).measure = (byteDirection b, n, [], 0)
  held : (t.part p).held = h
  bank : t.bank = s.bank
  bc : t.bc = { s.bc with holders := s.capturedHolders p }
  port : KeepsPort p.other s t

section

variable {p : Port} {b : Byte} {s t : State}

theorem captured_of {e : Session} {l : Upi} {n : Byte} {h : Option Byte} (hsession : t.session = s.session.set p e)
    (hupi : t.upi = s.upi.set p l) (hbank : t.bank = s.bank) (hbc : t.bc = { s.bc with holders := s.capturedHolders p })
    (hcaptured : e.bank = some (s.judgingId p)) (hmeasure : e.part.measure = (byteDirection b, n, [], 0))
    (hheld : e.part.held = h) : Captured p b n h s t := by
  have hget : t.session.get p = e := by simp [hsession]
  exact ⟨by rw [hget, hcaptured], by rw [State.part, hget, hmeasure], by rw [State.part, hget, hheld], hbank, hbc,
    by simp [KeepsPort, hsession, hupi]⟩

/-- What keeps the part that an address byte began has captured the bank. -/
theorem PartKept.captures (h : PartKept p (beginPart p b s) t) : Captured p b 0 none s t := by
  rw [beginPart_eq] at h
  constructor
  case captured => rw [h.captured]; simp
  case measure => rw [h.measure]; simp [State.part, Part.measure, noPart]
  case held => exact h.held (by simp [State.part, noPart])
  case bank => exact h.bank
  case bc => exact h.bc
  case port => simpa [KeepsPort] using h.port

theorem Captured.holders {n : Byte} {h : Option Byte} (hc : Captured p b n h s t) (k : BankId) :
    t.bc.holders.get k =
      if (s.session.get p).bank = none ∧ k = s.bc.active then s.bc.holders.get k + 1 else s.bc.holders.get k := by
  rw [hc.bc]
  unfold State.capturedHolders
  by_cases hb : (s.session.get p).bank = none
  · by_cases hk : k = s.bc.active
    · simp [hb, hk]
    · simp [hb, hk]
  · simp [hb]

/-- The part of a 7-bit address has presented a byte only when it reads the response slot (R46, R165). -/
theorem sevenBitAddress_captures :
    Captured p b
      (if addr7 (addressBits b) = s.managementAddress ∧ s.straps.mgmten.get p = true ∧ byteDirection b = .read then 1 else 0)
      none s (sevenBitAddress p b (beginPart p b s)) := by
  by_cases hm : addr7 (addressBits b) = s.managementAddress
  · rw [sevenBitAddress_management hm]
    cases hen : s.straps.mgmten.get p with
    | false =>
      rw [if_neg Bool.false_ne_true, discardManagement_under, if_neg (by simp)]
      exact captured_of rfl rfl rfl rfl rfl rfl rfl
    | true =>
      rw [if_pos rfl]
      cases hd : byteDirection b with
      | write =>
        rw [enterManagement_write hd, if_neg (by simp)]
        exact captured_of rfl rfl rfl rfl rfl (by rw [hd]; rfl) rfl
      | read =>
        rw [enterManagement_read hd, if_pos ⟨hm, rfl, rfl⟩]
        exact captured_of rfl rfl rfl rfl rfl (by rw [hd]; rfl) rfl
  · rw [if_neg fun h => hm h.1]
    refine PartKept.captures ?_
    have hsettle : sevenBitAddress p b (beginPart p b s) =
        settleAddress p (beginHold p (setAddress p .seven (addr7 (addressBits b)) (beginPart p b s))) := by
      unfold sevenBitAddress
      refine if_neg ?_
      rw [beginPart_eq]
      exact hm
    rw [hsettle]
    exact ((setAddress_keepsPart p _ _ _).trans (beginHold_keepsPart p _)).trans (settleAddress_keepsPart p _)

theorem tenBitRead_captures : Captured p b 0 none s (tenBitRead p b (beginPart p b s)) := by
  have hheld : ∀ a, PartKept p (beginPart p b s) (beginHold p (setAddress p .ten a (beginPart p b s))) := fun a =>
    (setAddress_keepsPart p _ _ _).trans (beginHold_keepsPart p _)
  refine PartKept.captures ?_
  unfold tenBitRead
  dsimp only
  split
  · split
    · exact (hheld _).trans (settleAddress_keepsPart p _)
    · exact (hheld _).trans (refuseFirstByte_keepsPart p _)
  · exact (hheld _).trans (refuseFirstByte_keepsPart p _)

theorem refuseFirstByte_state : ((refuseFirstByte p s).session.get p).state = .discard := by
  obtain ⟨f, a, h⟩ := refuseAddress_eq p .noEntry none (releaseSegment p s)
  rw [refuseFirstByte, h]
  simp

/-- The first byte of a 10-bit write is held just while its session stays in ADDRESS (R38). -/
theorem tenBitWriteFirst_captures (ha : (s.session.get p).state = .address) :
    Captured p b 0
      (if ((tenBitWriteFirst p b (beginPart p b s)).session.get p).state = .address then some b else none) s
      (tenBitWriteFirst p b (beginPart p b s)) := by
  cases hanswer : firstByteAnswer (s.bank.get (s.judgingId p)) p (highBits b) with
  | true =>
    rw [tenBitWriteFirst_answered hanswer, if_pos (by simpa using ha)]
    exact captured_of rfl rfl rfl rfl rfl rfl rfl
  | false =>
    have hrefusal : tenBitWriteFirst p b (beginPart p b s) = refuseFirstByte p (s.firstByte p b) := by
      unfold tenBitWriteFirst
      refine if_neg ?_
      show ¬firstByteAnswer ((s.firstByte p b).judged p) p (highBits b) = true
      rw [State.firstByte_judged, hanswer]
      decide
    rw [hrefusal, refuseFirstByte_state, if_neg (by decide)]
    exact ((setAddress_keepsPart p _ _ _).trans (refuseFirstByte_keepsPart p _)).captures

end

/-- Settles O22, by the kind of the address byte. -/
theorem firstAddressByteCaptures : Obligations.FirstAddressByteCaptures := by
  intro p b s hp ha hh
  rw [exec_firstAddressByte hp ha hh]
  refine ⟨_, rfl, ?_⟩
  have hcaptured : Captured p b
      (if isTenBitFirst b = false ∧ addr7 (addressBits b) = s.managementAddress ∧
        s.straps.mgmten.get p = true ∧ byteDirection b = .read then 1 else 0)
      (if isTenBitFirst b = true ∧ byteDirection b = .write ∧
        ((firstAddressByte p b s).session.get p).state = .address then some b else none) s (firstAddressByte p b s) := by
    cases ht : isTenBitFirst b with
    | false =>
      rw [firstAddressByte_seven ht]
      simpa using sevenBitAddress_captures
    | true =>
      cases hd : byteDirection b with
      | read =>
        rw [firstAddressByte_tenRead ht hd]
        simpa using tenBitRead_captures
      | write =>
        rw [firstAddressByte_tenWrite ht hd]
        simpa using tenBitWriteFirst_captures ha
  have hmeasure := hcaptured.measure
  simp only [Part.measure, Prod.mk.injEq] at hmeasure
  obtain ⟨hdirection, hcount, hsub, hlength⟩ := hmeasure
  refine ⟨hcaptured.captured, hcaptured.holders, hdirection, hcount, hcaptured.held, hsub, hlength, hcaptured.bank, ?_,
    hcaptured.port⟩
  rw [hcaptured.bc]

end Sys2Proof.Machine
end

section
/-!
PROOFS. The data phase: the hold of a byte, the checks of a byte by their faults, and the ways a byte ends (R26, R32, R33, R36, R47,
R84, R89 to R93).
-/

namespace Sys2Proof.Machine

/-! ## The hold of a byte -/

/-- The judgement of a byte of a part: nothing counted and nothing recorded yet. -/
def State.inHold (s : State) (p : Port) (t : Part) : Judgement :=
  s.judgement (s.session.get p).bank s.bc.holders t

section

variable (s : State) (p : Port)

theorem beginHold_under : beginHold p s = s.under p (s.inHold p (s.part p)) := by
  rw [beginHold_eq]
  rfl

theorem judgeQueue_inHold (l : List Byte) (r : Reason) (o : RecordOutcome) (x : Option Half) :
    s.judgeQueue p (s.inHold p { s.part p with sub := l }) r o x = s.queueWith p r o x := by
  unfold State.judgeQueue State.judgeRecord State.violationOf State.queueWith State.violationOf
  rw [State.under_part, State.under_judged]
  rfl

end

/-! ## The checks of a byte, by their faults -/

/-- The fault of a window check (R80, R81, R86). -/
def windowFault (k : Bank) (r : Reason) (l : Option WindowList) (o : Option Half) : Option (Reason × Option Half) :=
  match l, o with
  | some l, some x => if inList k l x = true then none else some (r, some x)
  | _, _ => none

/-- The fault of a length check (R83, R88). -/
def lengthFault (r : Reason) (limit : Option Byte) (o : Option Half) (n : Nat) : Option (Reason × Option Half) :=
  match limit with
  | some l => if n = l.toNat then some (r, o) else none
  | none => none

/-- A check that finds at most one fault. -/
def dataStep (p : Port) (i : EntryIdx) (e : Entry) (x : Option (Reason × Option Half)) (s : State) : Checked :=
  match x with
  | none => (s, false)
  | some (r, o) => dataViolation p i e r o s

theorem windowCheck_eq (p : Port) (i : EntryIdx) (e : Entry) (r : Reason) (l : Option WindowList) (o : Option Half)
    (s : State) : windowCheck p i e r l o s = dataStep p i e (windowFault (s.judged p) r l o) s := by
  unfold windowCheck windowFault
  cases l with
  | none => rfl
  | some l =>
    cases o with
    | none => rfl
    | some x =>
      dsimp only
      split <;> rfl

theorem lengthCheck_eq (p : Port) (i : EntryIdx) (e : Entry) (r : Reason) (l : Option Byte) (o : Option Half)
    (s : State) : lengthCheck p i e r l o s = dataStep p i e (lengthFault r l o (s.part p).length) s := by
  unfold lengthCheck lengthFault
  cases l with
  | none => rfl
  | some l =>
    dsimp only
    split <;> rfl

/-- What a violation of a REFUSE entry leaves of a judgement: it is counted, and makes the record CUT, unless the part has made one
(R90, R92). -/
structure CutBy (s : State) (p : Port) (k : BankId) (i : EntryIdx) (r : Reason) (x : Option Half)
    (j j' : Judgement) : Prop where
  bank : j'.bank = j.bank
  holders : j'.holders = j.holders
  part : j'.part = { j.part with recorded := true }
  accounts : j'.accounts = accountsWith j.accounts k i (.violated 1)
  queue : j'.queue = s.judgeQueue p j r .cut x

section

variable {s : State} {p : Port} {j : Judgement} {i : EntryIdx} {e : Entry} {k : BankId}

/-- A violation of a REFUSE entry is counted and recorded CUT, and refuses the byte (R92). -/
theorem dataViolation_cuts (ha : e.action = .refuse) (hk : j.bank.getD s.bc.active = k) (r : Reason)
    (x : Option Half) :
    ∃ j', dataViolation p i e r x (s.under p j) = (s.under p j', true) ∧ CutBy s p k i r x j j' := by
  let counted : Judgement := { j with accounts := accountsWith j.accounts k i (.violated 1) }
  obtain ⟨f, a, h⟩ := State.under_makeRecord s p counted r .cut x
  refine ⟨{ counted with
      queue := s.judgeQueue p counted r .cut x, flags := f, alert := a, part := { j.part with recorded := true } },
    ?_, rfl, rfl, rfl, rfl, ?_⟩
  · unfold dataViolation countViolation
    rw [ha, State.under_judgedId, hk]
    exact congrArg (·, true) h
  · simp [State.judgeQueue, State.judgeRecord, State.violationOf, counted]

/-- A violation of a LOG_ONLY entry is counted and recorded PASSED as at the address, and the byte goes on (R64, R92, R93). -/
theorem dataStep_logs (ha : e.action = .logOnly) (hk : j.bank.getD s.bc.active = k) (x : Option (Reason × Option Half)) :
    ∃ j', dataStep p i e x (s.under p j) = (s.under p j', false) ∧ Logged s p k i x.toList j j' := by
  cases x with
  | none => exact ⟨j, rfl, .nil s p k i j⟩
  | some x =>
    obtain ⟨j', h, hlogged⟩ := addressViolation_logs (p := p) (i := i) ha hk x.1 x.2
    refine ⟨j', ?_, hlogged⟩
    unfold addressViolation at h
    show dataViolation p i e x.1 x.2 _ = _
    unfold dataViolation
    rw [ha] at h ⊢
    exact congrArg (·, false) (Prod.mk.inj h).1

/-- The window check of a byte, and the length check after it. -/
def dataChecks (p : Port) (i : EntryIdx) (e : Entry) (r : Reason) (l : Option WindowList) (o : Option Half) (r' : Reason)
    (limit : Option Byte) (o' : Option Half) (s : State) : Checked :=
  andCheck (windowCheck p i e r l o s) (lengthCheck p i e r' limit o')

/-- The faults of the checks of a byte, in their order. -/
def dataFaults (k : Bank) (r : Reason) (l : Option WindowList) (o : Option Half) (r' : Reason) (limit : Option Byte)
    (o' : Option Half) (n : Nat) : List (Reason × Option Half) :=
  (windowFault k r l o).toList ++ (lengthFault r' limit o' n).toList

variable {r r' : Reason} {l : Option WindowList} {o o' : Option Half} {limit : Option Byte}
  (hk : j.bank.getD s.bc.active = k)
include hk

theorem dataChecks_pass (hx : dataFaults (s.bank.get k) r l o r' limit o' j.part.length = []) :
    dataChecks p i e r l o r' limit o' (s.under p j) = (s.under p j, false) := by
  obtain ⟨hwindow, hlength⟩ := List.append_eq_nil_iff.mp hx
  rw [Option.toList_eq_nil_iff] at hwindow hlength
  unfold dataChecks
  rw [windowCheck_eq, State.under_judged, hk, hwindow]
  show lengthCheck p i e r' limit o' (s.under p j) = _
  rw [lengthCheck_eq, State.under_part, hlength]
  rfl

/-- The first fault of a REFUSE entry refuses the byte (R84, R89). -/
theorem dataChecks_cut (ha : e.action = .refuse) {y : Reason} {x : Option Half}
    (hx : (dataFaults (s.bank.get k) r l o r' limit o' j.part.length).head? = some (y, x)) :
    ∃ j', dataChecks p i e r l o r' limit o' (s.under p j) = (s.under p j', true) ∧ CutBy s p k i y x j j' := by
  obtain ⟨j', hviolation, hcut⟩ := dataViolation_cuts (p := p) (i := i) ha hk y x
  refine ⟨j', ?_, hcut⟩
  unfold dataFaults at hx
  unfold dataChecks
  rw [windowCheck_eq, State.under_judged, hk]
  cases hwindow : windowFault (s.bank.get k) r l o with
  | some z =>
    rw [hwindow] at hx
    obtain rfl : z = (y, x) := by simpa using hx
    show andCheck (dataViolation p i e y x (s.under p j)) _ = _
    rw [hviolation]
    rfl
  | none =>
    rw [hwindow] at hx
    have hlength : lengthFault r' limit o' j.part.length = some (y, x) := by simpa [Option.head?_toList] using hx
    show lengthCheck p i e r' limit o' (s.under p j) = _
    rw [lengthCheck_eq, State.under_part, hlength]
    exact hviolation

/-- A LOG_ONLY entry passes the byte, its faults counted and the first recorded (R84, R89, R93). -/
theorem dataChecks_log (ha : e.action = .logOnly) :
    ∃ j', dataChecks p i e r l o r' limit o' (s.under p j) = (s.under p j', false) ∧
      Logged s p k i (dataFaults (s.bank.get k) r l o r' limit o' j.part.length) j j' := by
  obtain ⟨j₁, hwindow, hlogged₁⟩ := dataStep_logs (p := p) (i := i) ha hk (windowFault (s.bank.get k) r l o)
  have hk₁ : j₁.bank.getD s.bc.active = k := by rw [hlogged₁.bank]; exact hk
  obtain ⟨j₂, hlength, hlogged₂⟩ := dataStep_logs (p := p) (i := i) ha hk₁ (lengthFault r' limit o' j.part.length)
  refine ⟨j₂, ?_, hlogged₁.append hlogged₂⟩
  have hcount : j₁.part.length = j.part.length := by rw [hlogged₁.part]
  unfold dataChecks
  rw [windowCheck_eq, State.under_judged, hk, hwindow]
  show lengthCheck p i e r' limit o' (s.under p j₁) = _
  rw [lengthCheck_eq, State.under_part, hcount, hlength]

end

/-! ## What stays -/

theorem State.under_bc {s : State} {p : Port} {j : Judgement} (h : j.holders = s.bc.holders) : (s.under p j).bc = s.bc := by
  show { s.bc with holders := j.holders } = s.bc
  rw [h]

/-- What changes one session and its line, the segments, the accounts and the records, and no captured bank. -/
theorem keepsDevice_of {p : Port} {s t : State} {e : Session} {l : Upi} (hsession : t.session = s.session.set p e)
    (hupi : t.upi = s.upi.set p l) (hcaptured : e.bank = (s.session.get p).bank) (hbc : t.bc = s.bc)
    (hbank : t.bank = s.bank) (hrefill : t.refill = s.refill) (hcounters : t.portCounters = s.portCounters)
    (hmanagement : KeepsManagement s t) : KeepsDevice p s t :=
  ⟨hbank, hbc, hrefill, hcounters, hmanagement, by simp [KeepsPort, hsession, hupi], by simp [hsession, hcaptured]⟩

theorem keepsDevice_under {p : Port} {s : State} {j : Judgement} (hholders : j.holders = s.bc.holders)
    (hbank : j.bank = (s.session.get p).bank) : KeepsDevice p s (s.under p j) :=
  keepsDevice_of rfl rfl hbank (State.under_bc hholders) rfl rfl rfl
    ⟨rfl, rfl, rfl, rfl, rfl, rfl, rfl, rfl, rfl, rfl, rfl⟩

theorem KeepsDevice.trans {p : Port} {s t u : State} (h : KeepsDevice p s t) (h' : KeepsDevice p t u) :
    KeepsDevice p s u := by
  obtain ⟨h₁, h₂, h₃, h₄, ⟨m₁, m₂, m₃, m₄, m₅, m₆, m₇, m₈, m₉, m₁₀, m₁₁⟩, ⟨o₁, o₂⟩, h₅⟩ := h
  obtain ⟨k₁, k₂, k₃, k₄, ⟨n₁, n₂, n₃, n₄, n₅, n₆, n₇, n₈, n₉, n₁₀, n₁₁⟩, ⟨q₁, q₂⟩, k₅⟩ := h'
  exact ⟨k₁.trans h₁, k₂.trans h₂, k₃.trans h₃, k₄.trans h₄, ⟨n₁.trans m₁, n₂.trans m₂, n₃.trans m₃, n₄.trans m₄, n₅.trans m₅,
    n₆.trans m₆, n₇.trans m₇, n₈.trans m₈, n₉.trans m₉, n₁₀.trans m₁₀, n₁₁.trans m₁₁⟩, ⟨q₁.trans o₁, q₂.trans o₂⟩, k₅.trans h₅⟩

/-! ## A byte that ends the part -/

/-- A state whose port's byte, inside a hold, ends the part: NACK, DISCARD, the segment released (R31, R33, R90). -/
def State.nacked (s : State) (p : Port) : State :=
  { s with
    session := s.session.set p
      { (s.session.get p).unseated with
        state := .discard, wait := none, stretch := none, abandon := some (s.limits p).abandon,
        part := { s.part p with held := none } },
    upi := s.upi.set p
      { phase := answerPhase (s.part p).direction, hold := false,
        shift := discardShift s.settings.filler (s.part p).direction, ninth := some .nack },
    seg := s.segReleased p }

theorem endWithNack_of_held {p : Port} {s : State} (h : (s.upi.get p).hold = true) : endWithNack p s = s.nacked p := by
  unfold endWithNack
  rw [releaseWith_of_held h, releaseSegment_eq, enterDiscard_eq]
  ext1
  case session =>
    have hunseated := Session.unseated_judged (s.session.get p) (s.session.get p).bank (s.session.get p).part none
      (some (s.limits p).abandon)
    simp [State.nacked, State.part, hunseated]
  case upi => simp [State.nacked, State.part]
  case seg => exact PerSeg.ext_get fun g => by simp [State.nacked]
  all_goals rfl

section

variable (s : State) (p : Port)

theorem State.nacked_session :
    (s.nacked p).session.get p =
      { (s.session.get p).unseated with
        state := .discard, wait := none, stretch := none, abandon := some (s.limits p).abandon,
        part := { s.part p with held := none } } := by
  simp [State.nacked]

theorem discarding_nacked : Discarding p (s.nacked p) := by
  have hsession := State.nacked_session s p
  apply discarding_of
  case hupi => rw [State.part, hsession]; simp [State.nacked]
  all_goals simp [State.part, hsession]

theorem keepsDevice_nacked : KeepsDevice p s (s.nacked p) :=
  keepsDevice_of rfl rfl (Session.unseated_bank _) rfl rfl rfl rfl
    ⟨rfl, rfl, rfl, rfl, rfl, rfl, rfl, rfl, rfl, rfl, rfl⟩

theorem released_nacked : Released p s (s.nacked p) := fun g => s.get_segReleased p g

end

end Sys2Proof.Machine
end

section
/-!
PROOFS. Write data bytes in WRITE (R26, R32, R33, R37, R72 to R74, R80 to R84, R90 to R93).
-/

namespace Sys2Proof.Machine

/-! ## Counting and driving -/

/-- A write part whose byte has completed: counted, and no byte held (R26, R71). -/
def Part.counted (w : Width) (t : Part) : Part :=
  { t with
    count := satInc t.count, length := if t.count.toNat < w.bytes then t.length else min 256 (t.length + 1),
    held := none }

/-- The bytes to drive for a byte that completes: a held one goes first (R32, R37). -/
def sentBytes (b : Byte) : Option Byte → Byte × List Byte
  | some h => (h, [b])
  | none => (b, [])

section

variable {s : State} {p : Port} {g : SegId} {j : Judgement} {b : Byte}
  (hbank : j.bank = (s.session.get p).bank) (hdecision : j.part.decision = (s.part p).decision)
include hbank hdecision

theorem State.under_width : (s.under p j).width p = s.width p := by
  unfold State.width State.partEntry
  rw [State.under_part, State.under_judged, hbank, hdecision]
  rfl

theorem countWriteByte_under :
    (countWriteByte p (s.under p j)).updPart p (fun t => { t with held := none }) =
      s.under p { j with part := j.part.counted (s.width p) } := by
  unfold countWriteByte
  rw [State.under_width hbank hdecision, State.under_updPart, State.under_updPart]
  rfl

/-- A byte that passes is driven, behind a held one (R32, R37). -/
theorem finishWriteByte_passed (ho : (s.session.get p).owned = some g) (h : Option Byte) :
    finishWriteByte p b h (s.under p j, false) =
      { s.under p { j with part := j.part.counted (s.width p) } with
        seg := s.seg.set g { s.seg.get g with act := some (.send (sentBytes b h).1 (sentBytes b h).2) } } := by
  have howned : ((s.under p { j with part := j.part.counted (s.width p) }).session.get p).owned = some g := by
    rw [State.under_session]
    exact ho
  unfold finishWriteByte
  simp only [countWriteByte_under hbank hdecision]
  cases h <;>
  · unfold driveBytes
    rw [howned]
    rfl

/-- A byte that is refused ends the part (R33, R90). -/
theorem finishWriteByte_refused (h : Option Byte) :
    finishWriteByte p b h (s.under p j, true) =
      (s.under p { j with part := j.part.counted (s.width p) }).nacked p := by
  unfold finishWriteByte
  simp only [countWriteByte_under hbank hdecision]
  exact endWithNack_of_held (by rw [State.under_upi])

end

/-! ## What a byte leaves -/

theorem violationsCounted_of {p : Port} {i : EntryIdx} {n : Nat} {s t : State}
    (h : t.accounts = accountsWith s.accounts (s.judgedId p) i (.violated n)) : ViolationsCounted n p i s t := by
  intro k l
  rw [h, tableGet_accountsWith]
  rfl

/-- A write byte that a REFUSE entry's check refused (R33, R90, R92). -/
structure ByteRefused (p : Port) (i : EntryIdx) (r : Reason) (x : Option Half) (s t : State) : Prop where
  discarding : Discarding p t
  released : Released p s t
  segCounters : t.segCounters = s.segCounters
  count : (t.part p).count = satInc (s.part p).count
  recorded : (t.part p).recorded = true
  queue : t.queue = s.queueWith p r .cut x
  violations : ViolationCounted p i s t
  device : KeepsDevice p s t

/-- A write byte that a LOG_ONLY entry's checks passed, with the faults they found: driven as if there were none (R92, R93). -/
structure ByteLogged (p : Port) (i : EntryIdx) (r : Reason) (x : Option Half) (n : Nat) (u s t : State) : Prop where
  upi : t.upi = u.upi
  seg : t.seg = u.seg
  segCounters : t.segCounters = s.segCounters
  session : t.session.get p = { u.session.get p with part := { u.part p with recorded := true } }
  queue : t.queue = s.queueWith p r .passed x
  violations : ViolationsCounted n p i s t
  device : KeepsDevice p s t

section

variable {s : State} {p : Port} {g : SegId} {b : Byte} {i : EntryIdx} {l : List Byte} {j : Judgement} {h : Option Byte}

theorem driving_of (ho : (s.session.get p).owned = some g) :
    finishWriteByte p b h (s.under p (s.inHold p { s.part p with sub := l }), false) =
      s.driving p g l
        (if (s.part p).count.toNat < (s.width p).bytes then (s.part p).length else min 256 ((s.part p).length + 1))
        (sentBytes b h).1 (sentBytes b h).2 :=
  finishWriteByte_passed rfl rfl ho h

theorem byteRefused_of {r : Reason} {x : Option Half}
    (hcut : CutBy s p (s.judgedId p) i r x (s.inHold p { s.part p with sub := l }) j) :
    ByteRefused p i r x s (finishWriteByte p b h (s.under p j, true)) := by
  have hpart := hcut.part
  have hbank : j.bank = (s.session.get p).bank := hcut.bank
  rw [finishWriteByte_refused hbank (by rw [hpart]; rfl)]
  have hsession := State.nacked_session (s.under p { j with part := j.part.counted (s.width p) }) p
  constructor
  case discarding => exact discarding_nacked _ p
  case released => exact fun g => by simp [State.nacked, State.under]
  case segCounters => rfl
  case count => rw [State.part, hsession, State.under_part]; simp [Part.counted, hpart, State.inHold]
  case recorded => rw [State.part, hsession, State.under_part]; simp [Part.counted, hpart]
  case queue => exact hcut.queue.trans (judgeQueue_inHold s p l r .cut x)
  case violations => exact violationsCounted_of hcut.accounts
  case device =>
    have hunder := keepsDevice_under (j := { j with part := j.part.counted (s.width p) }) hcut.holders hbank
    exact hunder.trans (keepsDevice_nacked _ p)

theorem byteLogged_of {r : Reason} {x : Option Half} {rest : List (Reason × Option Half)}
    (ho : (s.session.get p).owned = some g)
    (hlogged : Logged s p (s.judgedId p) i ((r, x) :: rest) (s.inHold p { s.part p with sub := l }) j) :
    ByteLogged p i r x (rest.length + 1)
      (s.driving p g l
        (if (s.part p).count.toNat < (s.width p).bytes then (s.part p).length else min 256 ((s.part p).length + 1))
        (sentBytes b h).1 (sentBytes b h).2) s
      (finishWriteByte p b h (s.under p j, false)) := by
  have hpart := hlogged.part
  have hbank : j.bank = (s.session.get p).bank := hlogged.bank
  rw [finishWriteByte_passed hbank (by rw [hpart]; rfl) ho]
  constructor
  case upi | seg | segCounters => rfl
  case session =>
    rw [State.under_session]
    simp [State.driving, State.part, Part.counted, hpart, hbank, State.inHold, State.judgement]
    rfl
  case queue => exact hlogged.queue.trans (judgeQueue_inHold s p l r .passed x)
  case violations => exact violationsCounted_of hlogged.accounts
  case device =>
    exact keepsDevice_of rfl rfl hbank (State.under_bc (p := p) hlogged.holders) rfl rfl rfl
      ⟨rfl, rfl, rfl, rfl, rfl, rfl, rfl, rfl, rfl, rfl, rfl⟩

end

/-! ## The faults of a byte -/

section

variable {k : Bank} {e : Entry} {m : WindowMode} {r : Reason} {l : Option WindowList} {o : Option Half}

/-- No list in force finds an offset out. -/
theorem windowFault_of_passes (h : e.mode = m → ∀ w x, l = some w → o = some x → inList k w x = true) :
    windowFault k r (listIn m e l) o = none := by
  unfold windowFault listIn
  by_cases hm : e.mode = m
  · rw [if_pos hm]
    cases hl : l with
    | none => rfl
    | some w =>
      cases ho : o with
      | none => rfl
      | some x => exact if_pos (h hm w x hl ho)
  · rw [if_neg hm]

theorem windowFault_of_out {w : WindowList} {x : Half} (hm : e.mode = m) (hl : l = some w) (ho : o = some x)
    (h : inList k w x = false) : windowFault k r (listIn m e l) o = some (r, some x) := by
  unfold windowFault listIn
  rw [if_pos hm, hl, ho]
  exact if_neg (by simp [h])

theorem lengthFault_of_passes {limit : Option Byte} {n : Nat} (h : ∀ l, limit = some l → n ≠ l.toNat) :
    lengthFault r limit o n = none := by
  unfold lengthFault
  cases hl : limit with
  | none => rfl
  | some l => exact if_neg (h l hl)

theorem lengthFault_of_limit {limit : Option Byte} {n : Nat} {w : Byte} (hl : limit = some w) (hn : n = w.toNat) :
    lengthFault r limit o n = some (r, o) := by
  unfold lengthFault
  rw [hl]
  exact if_pos hn

end

/-- The faults of a write data byte after the sub-address (R81, R83). -/
def State.writeFaults (s : State) (p : Port) (i : EntryIdx) : List (Reason × Option Half) :=
  dataFaults (s.judged p) .writeWindow
    (listIn .everyByte (tableGet (s.judged p).entries i) (tableGet (s.judged p).entries i).writeList) (s.pointerFor p i)
    .writeLength (tableGet (s.judged p).entries i).writeLimit
    (if (tableGet (s.judged p).entries i).width = .w0 then none else s.pointerFor p i) (s.part p).length

section

variable {s : State} {p : Port} {g : SegId} {b : Byte} {i : EntryIdx}

theorem exec_writing (h : s.writing p g) : exec (.dataByte p b) s = .next (relayWriteByte p b s) := by
  obtain ⟨hp, hstate, hdirection, hhold, -⟩ := h
  refine congrArg Host.Outcome.next ((inService_eq _ hp).trans ?_)
  unfold takeDataByte
  have hfree : s.free p = true := by simp [State.free, hstate, hhold, SessionState.open]
  rw [if_pos ⟨hfree, hdirection⟩, hstate]

theorem State.width_of_entry (h : (s.part p).decision = some (.entry i)) :
    s.width p = (tableGet (s.judged p).entries i).width := by
  unfold State.width State.partEntry
  rw [h]
  rfl

theorem entry?_eq_none {d : Option Decision} (h : ∀ i, d ≠ some (.entry i)) : Decision.entry? d = none := by
  cases d with
  | none => rfl
  | some c =>
    cases c with
    | entry i => exact absurd rfl (h i)
    | _ => rfl

theorem relayWriteByte_of_noEntry (h : ∀ i, (s.part p).decision ≠ some (.entry i)) :
    relayWriteByte p b s = finishWriteByte p b none (beginHold p s, false) := by
  unfold relayWriteByte
  rw [entry?_eq_none h]

/-- A byte after the sub-address has its window and then its length checked (R84). -/
theorem relayWriteByte_past (h : s.pastSubAddress p i) :
    relayWriteByte p b s =
      finishWriteByte p b none
        (dataChecks p i (tableGet (s.judged p).entries i) .writeWindow
          (listIn .everyByte (tableGet (s.judged p).entries i) (tableGet (s.judged p).entries i).writeList)
          (s.pointerFor p i) .writeLength (tableGet (s.judged p).entries i).writeLimit
          (if (tableGet (s.judged p).entries i).width = .w0 then none else s.pointerFor p i)
          (s.under p (s.inHold p (s.part p)))) := by
  obtain ⟨hdecision, hsub, -⟩ := h
  unfold relayWriteByte
  rw [hdecision]
  dsimp only [Decision.entry?]
  rw [if_neg (by omega), if_neg (by omega), beginHold_under]
  unfold writeDataChecks
  rw [State.under_pointerFor]
  rfl

theorem relayWriteByte_passes (h : s.pastSubAddress p i) (hx : s.writeFaults p i = []) :
    relayWriteByte p b s = finishWriteByte p b none (s.under p (s.inHold p (s.part p)), false) := by
  rw [relayWriteByte_past h, dataChecks_pass (s := s) (j := s.inHold p (s.part p)) (k := s.judgedId p) rfl hx]

theorem relayWriteByte_cuts (h : s.pastSubAddress p i) (ha : (tableGet (s.judged p).entries i).action = .refuse)
    {r : Reason} {x : Option Half} (hx : (s.writeFaults p i).head? = some (r, x)) :
    ByteRefused p i r x s (relayWriteByte p b s) := by
  obtain ⟨j, hchecks, hcut⟩ := dataChecks_cut (s := s) (p := p) (i := i) (j := s.inHold p (s.part p))
    (k := s.judgedId p) rfl ha hx
  rw [relayWriteByte_past h, hchecks]
  exact byteRefused_of (l := (s.part p).sub) hcut

theorem relayWriteByte_logs (h : s.pastSubAddress p i) (ha : (tableGet (s.judged p).entries i).action = .logOnly)
    (ho : (s.session.get p).owned = some g) {r : Reason} {x : Option Half} {rest : List (Reason × Option Half)}
    (hx : s.writeFaults p i = (r, x) :: rest) :
    ByteLogged p i r x (rest.length + 1) (s.driving p g (s.part p).sub (min 256 ((s.part p).length + 1)) b []) s
      (relayWriteByte p b s) := by
  obtain ⟨j, hchecks, hlogged⟩ := dataChecks_log (s := s) (p := p) (i := i) (j := s.inHold p (s.part p))
    (k := s.judgedId p) (r := .writeWindow)
    (l := listIn .everyByte (tableGet (s.judged p).entries i) (tableGet (s.judged p).entries i).writeList)
    (o := s.pointerFor p i) (r' := .writeLength) (limit := (tableGet (s.judged p).entries i).writeLimit)
    (o' := if (tableGet (s.judged p).entries i).width = .w0 then none else s.pointerFor p i) rfl ha
  have hfaults : Logged s p (s.judgedId p) i (s.writeFaults p i) (s.inHold p (s.part p)) j := hlogged
  rw [hx] at hfaults
  have hbyte := byteLogged_of (b := b) (h := none) (l := (s.part p).sub) ho hfaults
  rw [State.width_of_entry h.1, if_neg (Nat.not_lt.mpr h.2.2)] at hbyte
  rw [relayWriteByte_past h, hchecks]
  exact hbyte

end

/-- Settles O33: no check is made, or none finds a fault, and the byte is driven. -/
theorem writeByteRelayed : Obligations.WriteByteRelayed := by
  intro p b g s hw h
  have ⟨_, _, _, _, howned⟩ := hw
  have hdriving := driving_of (b := b) (h := none) (l := (s.part p).sub) howned
  rw [exec_writing hw]
  rcases h with h | ⟨i, hpast, hwindow, hlength⟩
  · have hwidth : s.width p = .w0 := by
      unfold State.width State.partEntry
      rw [entry?_eq_none h]
      rfl
    rw [relayWriteByte_of_noEntry h, beginHold_under]
    rw [hwidth, if_neg (by simp [Width.bytes])] at hdriving
    exact congrArg Host.Outcome.next hdriving
  · have hfaults : s.writeFaults p i = [] := by
      unfold State.writeFaults dataFaults
      rw [windowFault_of_passes hwindow, lengthFault_of_passes hlength]
      rfl
    rw [relayWriteByte_passes hpast hfaults]
    rw [State.width_of_entry hpast.1, if_neg (Nat.not_lt.mpr hpast.2.2)] at hdriving
    exact congrArg Host.Outcome.next hdriving

/-- Settles O34: the first fault of the byte refuses it, or all its faults are logged. -/
theorem writeByteViolation : Obligations.WriteByteViolation := by
  intro p b g s i r o hw hpast e out long
  have ⟨_, _, _, _, howned⟩ := hw
  rw [exec_writing hw]
  have hhead : out ∨ long → (s.writeFaults p i).head? = some (r, o) := by
    unfold State.writeFaults dataFaults
    rintro (⟨rfl, hm, w, x, hl, hptr, rfl, hin⟩ | ⟨rfl, hwindow, ⟨w, hl, hn⟩, ho⟩)
    · rw [windowFault_of_out hm hl hptr hin]
      rfl
    · rw [windowFault_of_passes hwindow, lengthFault_of_limit hl hn, ho]
      rfl
  refine ⟨fun ha hviolates => ?_, fun n h => ?_⟩
  · have hrefused := relayWriteByte_cuts (b := b) hpast ha (hhead hviolates)
    exact ⟨_, rfl, hrefused.discarding, hrefused.released, hrefused.segCounters, hrefused.count, hrefused.recorded,
      hrefused.queue, hrefused.violations, hrefused.device⟩
  · obtain ⟨ha, rest, hfaults, rfl⟩ : e.action = .logOnly ∧ ∃ rest, s.writeFaults p i = (r, o) :: rest ∧ n = rest.length + 1 := by
      unfold State.writeFaults dataFaults
      rcases h with ⟨ha, ⟨⟨rfl, hm, w, x, hl, hptr, rfl, hin⟩, hlimit⟩ | ⟨rfl, hwindow, ⟨w, hl, hn⟩, ho⟩, rfl⟩ |
        ⟨ha, ⟨rfl, hm, w, x, hl, hptr, rfl, hin⟩, ⟨w', hl', hn⟩, rfl⟩
      · rw [windowFault_of_out hm hl hptr hin, lengthFault_of_passes hlimit]
        exact ⟨ha, [], rfl, rfl⟩
      · rw [windowFault_of_passes hwindow, lengthFault_of_limit hl hn, ho]
        exact ⟨ha, [], rfl, rfl⟩
      · rw [windowFault_of_out hm hl hptr hin, lengthFault_of_limit hl' hn]
        exact ⟨ha, [_], rfl, rfl⟩
    have hbyte := relayWriteByte_logs (b := b) hpast ha howned hfaults
    exact ⟨_, rfl, hbyte.upi, hbyte.seg, hbyte.segCounters, hbyte.session, hbyte.queue, hbyte.violations, hbyte.device⟩

end Sys2Proof.Machine
end

section
/-!
PROOFS. Sub-address bytes (R37, R73, R74, R80, R82), and the bytes of DISCARD and MGMT (R26, R44, R46, R160).
-/

namespace Sys2Proof.Machine

/-! ## Sub-address bytes -/

section

variable {s : State} {p : Port} {g : SegId} {b : Byte} {i : EntryIdx}

theorem gatherByte_under (t : Part) :
    gatherByte p b (s.under p (s.inHold p t)) = s.under p (s.inHold p { t with sub := t.sub ++ [b] }) :=
  State.under_updPart s p _ _

theorem State.updPart_part (f : Part → Part) : (s.updPart p f).part p = f (s.part p) := by
  simp [State.part, State.updPart]

theorem State.updPart_width {f : Part → Part} (h : (f (s.part p)).decision = (s.part p).decision) :
    (s.updPart p f).width p = s.width p := by
  unfold State.width State.partEntry
  rw [State.updPart_part, h]
  have hjudged : (s.updPart p f).judged p = s.judged p := by simp [State.judged, State.judgedId, State.updPart]
  rw [hjudged]

/-- A byte held for the one behind it is counted, acknowledged and not driven (R37, R74). -/
theorem holdFirstByte_eq :
    holdFirstByte p b s =
      { s with
        session := s.session.set p
          { s.session.get p with
            part :=
              { s.part p with
                count := satInc (s.part p).count,
                length :=
                  if (s.part p).count.toNat < (s.width p).bytes then (s.part p).length
                  else min 256 ((s.part p).length + 1),
                sub := (s.part p).sub ++ [b], held := some b } },
        upi := s.upi.set p { s.upi.get p with ninth := some .ack } } := by
  have hgathered : (gatherByte p b s).updPart p (fun t => { t with held := some b }) =
      s.updPart p fun t => { t with sub := t.sub ++ [b], held := some b } := by
    ext1
    case session => simp [gatherByte, State.updPart]
    all_goals rfl
  unfold holdFirstByte countWriteByte
  rw [hgathered, State.updPart_width rfl]
  ext1
  case session =>
    simp [driveNinth, State.updPart, State.part]
    rfl
  all_goals rfl

/-- The fault of the byte that completes the sub-address (R80). -/
def State.startFault (s : State) (p : Port) (i : EntryIdx) (b : Byte) : Option (Reason × Option Half) :=
  windowFault (s.judged p) .writeWindow
    (listIn .atStart (tableGet (s.judged p).entries i) (tableGet (s.judged p).entries i).writeList)
    (some (subAddress ((s.part p).sub ++ [b])))

variable (hd : (s.part p).decision = some (.entry i))
include hd

theorem relayWriteByte_holds (hn : (s.part p).sub.length + 2 = (tableGet (s.judged p).entries i).width.bytes) :
    relayWriteByte p b s = holdFirstByte p b s := by
  unfold relayWriteByte
  rw [hd]
  exact if_pos hn

/-- The last sub-address byte has the offset checked that it completes (R80, R84). -/
theorem relayWriteByte_lastSub (hn : (s.part p).sub.length + 1 = (tableGet (s.judged p).entries i).width.bytes) :
    relayWriteByte p b s =
      finishWriteByte p b (s.part p).held
        (dataStep p i (tableGet (s.judged p).entries i) (s.startFault p i b)
          (s.under p (s.inHold p { s.part p with sub := (s.part p).sub ++ [b] }))) := by
  unfold relayWriteByte
  rw [hd]
  dsimp only [Decision.entry?]
  rw [if_neg (by omega), if_pos hn, beginHold_under, gatherByte_under]
  unfold subAddressChecks
  rw [windowCheck_eq, State.under_judged, State.under_part]
  rfl

end

/-- Settles O35: the first byte of two is held; the last one completes the offset that AT_START checks. -/
theorem subAddressBytes : Obligations.SubAddressBytes := by
  intro p b g s i hw hd e part
  have ⟨_, _, _, _, howned⟩ := hw
  rw [exec_writing hw]
  refine ⟨fun hwidth hsub hcount hheld => ?_, fun x first rest hlast => ?_⟩
  · have hbytes : (tableGet (s.judged p).entries i).width.bytes = 2 := by
      show e.width.bytes = 2
      rw [hwidth]
      rfl
    rw [relayWriteByte_holds hd (by rw [hbytes]; show part.sub.length + 2 = 2; rw [hsub]; rfl), holdFirstByte_eq]
    have hstays : (s.part p).count.toNat < (s.width p).bytes := by
      rw [State.width_of_entry hd, hbytes]
      show part.count.toNat < 2
      rw [hcount]
      decide
    have hone : satInc (s.part p).count = 1 := by
      show satInc part.count = 1
      rw [hcount]
      rfl
    have hfirst : (s.part p).sub ++ [b] = [b] := congrArg (· ++ [b]) hsub
    rw [if_pos hstays, hone, hfirst]
  · obtain ⟨hn, hcount, hx, hsent⟩ : part.sub.length + 1 = e.width.bytes ∧ part.count.toNat < e.width.bytes ∧
        subAddress (part.sub ++ [b]) = x ∧ sentBytes b part.held = (first, rest) := by
      rcases hlast with ⟨hwidth, hsub, hcount, hheld, rfl, rfl, rfl⟩ | ⟨hwidth, hsub, hcount, hheld, rfl, rfl⟩
      · rw [hwidth, hsub, hcount, hheld]
        exact ⟨rfl, by decide, rfl, rfl⟩
      · rw [hwidth, hsub, hcount, hheld]
        exact ⟨rfl, by decide, rfl, rfl⟩
    have hlength : (if (s.part p).count.toNat < (s.width p).bytes then (s.part p).length
        else min 256 ((s.part p).length + 1)) = part.length := by
      rw [State.width_of_entry hd]
      exact if_pos hcount
    rw [relayWriteByte_lastSub hd hn]
    refine ⟨fun hin => ?_, fun l hm hl hout => ⟨fun ha => ?_, fun ha => ?_⟩⟩
    · have hfault : s.startFault p i b = none :=
        windowFault_of_passes fun hm w o hl ho => by
          obtain rfl := Option.some.inj ho
          rw [hx]
          exact hin w hm hl
      have hdriving := driving_of (b := b) (h := part.held) (l := part.sub ++ [b]) howned
      rw [hlength, hsent] at hdriving
      rw [hfault]
      exact congrArg Host.Outcome.next hdriving
    all_goals
      have hfault : s.startFault p i b = some (.writeWindow, some x) := by
        rw [← hx]
        exact windowFault_of_out hm hl rfl (by rw [hx]; exact hout)
      rw [hfault]
    · obtain ⟨j, hchecks, hcut⟩ := dataViolation_cuts (s := s) (p := p) (i := i)
        (j := s.inHold p { s.part p with sub := (s.part p).sub ++ [b] }) (k := s.judgedId p) ha rfl .writeWindow (some x)
      have hrefused := byteRefused_of (b := b) (h := part.held) hcut
      refine ⟨_, congrArg (fun t => Host.Outcome.next (finishWriteByte p b part.held t)) hchecks, hrefused.discarding,
        hrefused.released, hrefused.segCounters, hrefused.queue, hrefused.violations, hrefused.device⟩
    · obtain ⟨j, hchecks, hlogged⟩ := dataStep_logs (s := s) (p := p) (i := i)
        (j := s.inHold p { s.part p with sub := (s.part p).sub ++ [b] }) (k := s.judgedId p) ha rfl
        (some (.writeWindow, some x))
      have hbyte := byteLogged_of (b := b) (h := part.held) howned hlogged
      rw [hlength, hsent] at hbyte
      exact ⟨_, congrArg (fun t => Host.Outcome.next (finishWriteByte p b part.held t)) hchecks, hbyte.upi, hbyte.seg,
        hbyte.segCounters, hbyte.session, hbyte.queue, hbyte.violations, hbyte.device⟩

/-! ## Bytes that go to no segment -/

section

variable {s : State} {p : Port} {b : Byte}

/-- The sessions after a write byte of a port has been counted (R26, R71). -/
def State.countedSessions (s : State) (p : Port) : PerPort Session :=
  s.session.set p
    { s.session.get p with
      part :=
        { s.part p with
          count := satInc (s.part p).count,
          length :=
            if (s.part p).count.toNat < (s.width p).bytes then (s.part p).length
            else min 256 ((s.part p).length + 1) } }

theorem State.free_of {c : SessionState} (hstate : (s.session.get p).state = c) (hhold : (s.upi.get p).hold = false) :
    s.free p = c.open := by
  simp [State.free, hstate, hhold]

theorem exec_discardedByte (hp : s.phase = .inService) (hstate : (s.session.get p).state = .discard)
    (hd : (s.part p).direction = .write) (hhold : (s.upi.get p).hold = false) :
    exec (.dataByte p b) s = .next
      { s with
        session := s.countedSessions p, upi := s.upi.set p { s.upi.get p with ninth := some .nack } } := by
  refine congrArg Host.Outcome.next ((inService_eq _ hp).trans ?_)
  unfold takeDataByte
  rw [if_pos ⟨State.free_of hstate hhold, hd⟩, hstate]
  rfl

/-- A byte of a management write is counted and goes to the parser, which answers it (R46, R160). -/
theorem exec_managementByte (hp : s.phase = .inService) (hstate : (s.session.get p).state = .mgmt)
    (hd : (s.part p).direction = .write) (hhold : (s.upi.get p).hold = false) {r : Parser} {a : Ack}
    (h : parserByte (s.job.get p).isSome b (s.parser.get p) = (r, a)) :
    exec (.dataByte p b) s = .next
      { s with
        session := s.countedSessions p, upi := s.upi.set p { s.upi.get p with ninth := some a },
        parser := s.parser.set p r } := by
  refine congrArg Host.Outcome.next ((inService_eq _ hp).trans ?_)
  unfold takeDataByte parseByte
  rw [if_pos ⟨State.free_of hstate hhold, hd⟩, hstate]
  dsimp only
  rw [h]
  rfl

end

section

variable {b : Byte} {r : Parser}

/-- A length byte within 32 opens the arguments, or the CRC byte when there are none (R160). -/
theorem parserByte_length (h : r.state = .awaitLength) (hb : b.toNat ≤ 32) (busy : Bool) :
    parserByte busy b r =
      ({ r with
          state := if b = 0 then .awaitCrc else .awaitArguments, length := b, running := crc8Byte r.running b },
        .ack) := by
  unfold parserByte
  rw [h]
  exact if_pos hb

theorem parserByte_argument (h : r.state = .awaitArguments) (busy : Bool) :
    parserByte busy b r = (keepArgument b r, .ack) := by
  unfold parserByte
  rw [h]

theorem parserByte_ended (h : r.state = .complete ∨ r.state = .overlength ∨ r.state = .refused) (busy : Bool) :
    parserByte busy b r = (r, .nack) := by
  unfold parserByte
  rcases h with h | h | h <;> rw [h]

end

/-- Settles O36: the parser's answer to the byte, by its state. -/
theorem discardAndManagementBytes : Obligations.DiscardAndManagementBytes := by
  intro p b s hp hd hhold counted
  refine ⟨fun hstate => exec_discardedByte hp hstate hd hhold, fun hstate => ?_⟩
  intro r goes folded
  have hgoes : ∀ a r', parserByte (s.job.get p).isSome b r = (r', a) → goes a r' := fun a r' h =>
    exec_managementByte hp hstate hd hhold h
  refine ⟨fun hr hjob => hgoes _ _ ?busy, fun hr hjob => hgoes _ _ ?command, fun hr hb => hgoes _ _ ?empty,
    fun hr hlow hhigh => hgoes _ _ ?length, fun hr hb => hgoes _ _ ?overlength, fun hr hn => hgoes _ _ ?argument,
    fun hr hn => hgoes _ _ ?last, fun hr => hgoes _ _ ?crc, fun hr => hgoes _ _ (parserByte_ended hr _)⟩
  case busy =>
    unfold parserByte
    rw [hr, hjob]
    rfl
  case command =>
    unfold parserByte
    rw [hr, hjob]
    rfl
  case empty =>
    obtain rfl := hb
    rw [parserByte_length hr (by decide), if_pos rfl]
    rfl
  case length =>
    rw [parserByte_length hr hhigh, if_neg (by rintro rfl; simp at hlow)]
    rfl
  case overlength =>
    unfold parserByte
    rw [hr]
    exact if_neg (by omega)
  case argument =>
    rw [parserByte_argument hr]
    unfold keepArgument
    rw [if_neg (by omega), ← hr]
    rfl
  case last =>
    rw [parserByte_argument hr]
    unfold keepArgument
    rw [if_pos hn]
    rfl
  case crc =>
    unfold parserByte
    rw [hr]

end Sys2Proof.Machine
end

section
/-!
PROOFS. Read bytes: the checks of a request, the cut of a read, and the ends and fillers of reads (R34 to R36, R44 to R46, R86 to R93,
R165).
-/

namespace Sys2Proof.Machine

/-! ## The ninth bit owed -/

theorem clockNinth_eq (g : SegId) (a : Ack) (s : State) :
    clockNinth g a s = { s with seg := s.seg.set g (ninthClocked a (s.seg.get g)) } := rfl

/-! ## The end of a cut read -/

/-- A state whose port's read, inside a hold, is cut: the ninth bit NACK, the segment released, the filler byte presented, FILL
(R36, R45, R91). -/
def State.cut (s : State) (p : Port) (g : SegId) : State :=
  { s with
    session := s.session.set p
      { s.session.get p with
        owned := none, pointer := none, remembered := none, state := .fill, stretch := none,
        abandon := some (s.limits p).abandon, part := { s.part p with count := satInc (s.part p).count } },
    upi := s.upi.set p { s.upi.get p with hold := false, phase := .send, shift := some s.settings.filler },
    seg := s.seg.set g (releasing (ninthClocked .nack (s.seg.get g))) }

theorem finishCut_of_held {p : Port} {g : SegId} {s : State} (ho : (s.session.get p).owned = some g)
    (h : (s.upi.get p).hold = true) : finishCut p g s = s.cut p g := by
  have hrelease : releaseSegment p (clockNinth g .nack s) =
      { s with
        session := s.session.set p { s.session.get p with owned := none, pointer := none, remembered := none },
        seg := s.seg.set g (releasing (ninthClocked .nack (s.seg.get g))) } := by
    unfold releaseSegment
    rw [clockNinth_eq]
    dsimp only
    rw [ho]
    ext1
    case seg => simp [releasing, loseOwnership]
    all_goals rfl
  unfold finishCut
  rw [hrelease, releaseHold_of_held (by simpa [presentFiller, presentByte, countByte, State.updPart] using h)]
  ext1
  case session =>
    simp [presentFiller, presentByte, countByte, enterFill, State.setSessionState, State.updPart, State.cut, State.part,
      State.limits]
  case upi => simp [presentFiller, presentByte, countByte, State.updPart, State.cut, enterFill, State.setSessionState]
  all_goals rfl

section

variable (s : State) (p : Port) (g : SegId)

theorem State.cut_session :
    (s.cut p g).session.get p =
      { s.session.get p with
        owned := none, pointer := none, remembered := none, state := .fill, stretch := none,
        abandon := some (s.limits p).abandon, part := { s.part p with count := satInc (s.part p).count } } := by
  simp [State.cut]

theorem keepsOtherSegs_set {s t : State} {g : SegId} {c : Segment} (hseg : t.seg = s.seg.set g c)
    (hcounters : t.segCounters = s.segCounters) : KeepsOtherSegs g s t := fun h hne => by
  rw [hseg, hcounters]
  exact ⟨by simp [hne], rfl⟩

theorem keepsDevice_cut : KeepsDevice p s (s.cut p g) :=
  keepsDevice_of rfl rfl rfl rfl rfl rfl rfl ⟨rfl, rfl, rfl, rfl, rfl, rfl, rfl, rfl, rfl, rfl, rfl⟩

theorem releasing_ninthClocked {c : Segment} (h : c.ninthOwed = true) (a : Ack) :
    releasing (ninthClocked a c) = { releasing c with ninthSent := some a } := by
  unfold ninthClocked
  rw [if_pos h]
  rfl

end

/-! ## The checks of a request -/

/-- The faults of a requested byte, by the entry that decides its part (R86, R88). -/
def State.readFaults (s : State) (p : Port) (i : EntryIdx) : List (Reason × Option Half) :=
  dataFaults (s.judged p) .readWindow
    (listIn .everyByte (tableGet (s.judged p).entries i) (tableGet (s.judged p).entries i).readList) (s.pointerFor p i)
    .readLength (tableGet (s.judged p).entries i).readLimit (s.pointerFor p i) (s.part p).length

/-- The state in which a byte is fetched after its checks (R34, R89). -/
def State.fetching (s : State) (p : Port) (g : SegId) (j : Judgement) : State :=
  { s.under p j with seg := s.seg.set g { ninthClocked .ack (s.seg.get g) with act := some (.receive false) } }

section

variable {s : State} {p : Port} {g : SegId} {i : EntryIdx} {first : Bool}

theorem requestByte_of_passed {j : Judgement} (h : readChecks p (beginHold p s) = (s.under p j, false)) :
    requestByte p g first s = s.fetching p g j := by
  unfold requestByte
  rw [h]
  ext1
  case seg => simp [clockNinth_eq, State.fetching, State.under]
  all_goals rfl

theorem readChecks_of_entry (hd : (s.part p).decision = some (.entry i)) :
    readChecks p (beginHold p s) =
      dataChecks p i (tableGet (s.judged p).entries i) .readWindow
        (listIn .everyByte (tableGet (s.judged p).entries i) (tableGet (s.judged p).entries i).readList)
        (s.pointerFor p i) .readLength (tableGet (s.judged p).entries i).readLimit (s.pointerFor p i)
        (s.under p (s.inHold p (s.part p))) := by
  have hdecision : (s.inHold p (s.part p)).part.decision = some (.entry i) := hd
  rw [beginHold_under]
  unfold readChecks
  rw [State.under_part, hdecision]
  dsimp only [Decision.entry?]
  rw [State.under_judged, State.under_pointerFor]
  rfl

/-- A request without a fault fetches its byte (R34). -/
theorem requestByte_passes (h : ∀ i, (s.part p).decision = some (.entry i) → s.readFaults p i = []) :
    requestByte p g first s = s.fetching p g (s.inHold p (s.part p)) := by
  refine requestByte_of_passed ?_
  by_cases hentry : ∃ i, (s.part p).decision = some (.entry i)
  · obtain ⟨i, hd⟩ := hentry
    rw [readChecks_of_entry hd]
    exact dataChecks_pass (s := s) (j := s.inHold p (s.part p)) (k := s.judgedId p) rfl (h i hd)
  · have hdecision : Decision.entry? (s.inHold p (s.part p)).part.decision = none :=
      entry?_eq_none (not_exists.mp hentry)
    rw [beginHold_under]
    unfold readChecks
    rw [State.under_part, hdecision]

/-- A request whose faults are logged fetches its byte (R92, R93). -/
theorem requestByte_logs (hd : (s.part p).decision = some (.entry i))
    (ha : (tableGet (s.judged p).entries i).action = .logOnly) :
    ∃ j, requestByte p g first s = s.fetching p g j ∧
      Logged s p (s.judgedId p) i (s.readFaults p i) (s.inHold p (s.part p)) j := by
  obtain ⟨j, hchecks, hlogged⟩ := dataChecks_log (s := s) (p := p) (i := i) (j := s.inHold p (s.part p))
    (k := s.judgedId p) (r := .readWindow)
    (l := listIn .everyByte (tableGet (s.judged p).entries i) (tableGet (s.judged p).entries i).readList)
    (o := s.pointerFor p i) (r' := .readLength) (limit := (tableGet (s.judged p).entries i).readLimit)
    (o' := s.pointerFor p i) rfl ha
  exact ⟨j, requestByte_of_passed ((readChecks_of_entry hd).trans hchecks), hlogged⟩

/-- A refused request cuts the part, for byte 0 after it is clocked in (R36, R89). -/
theorem requestByte_cuts (hd : (s.part p).decision = some (.entry i))
    (ha : (tableGet (s.judged p).entries i).action = .refuse) {r : Reason} {x : Option Half}
    (hx : (s.readFaults p i).head? = some (r, x)) :
    ∃ j, CutBy s p (s.judgedId p) i r x (s.inHold p (s.part p)) j ∧
      requestByte p g first s =
        if first = true then
          { s.under p j with seg := s.seg.set g { s.seg.get g with act := some (.receive true) } }
        else finishCut p g (s.under p j) := by
  obtain ⟨j, hchecks, hcut⟩ := dataChecks_cut (s := s) (p := p) (i := i) (j := s.inHold p (s.part p))
    (k := s.judgedId p) rfl ha hx
  refine ⟨j, hcut, ?_⟩
  unfold requestByte
  rw [(readChecks_of_entry hd).trans hchecks]
  rfl

end

/-! ## The ninth bits of reads -/

section

variable {p : Port} {s : State}

theorem exec_readNinth (act : State → State) (hp : s.phase = .inService) {c : SessionState}
    (hstate : (s.session.get p).state = c) (hopen : c.open = true) (hd : (s.part p).direction = .read)
    (hhold : (s.upi.get p).hold = false) :
    ((s.upi.get p).phase = .send → inService (takeReadNinth p act) s = act s) ∧
      ((s.upi.get p).phase = .ended → inService (takeReadNinth p act) s = countByte p s) := by
  have hfree : s.free p = true ∧ (s.part p).direction = .read := ⟨(State.free_of hstate hhold).trans hopen, hd⟩
  rw [inService_eq _ hp]
  unfold takeReadNinth
  rw [if_pos hfree]
  exact ⟨fun h => by rw [h], fun h => by rw [h]⟩

/-- In FILL and DISCARD the next byte is the filler byte (R44, R45). -/
theorem presentFiller_eq (hphase : (s.upi.get p).phase = .send) :
    presentFiller p s =
      { s with
        session := s.session.set p { s.session.get p with part := { s.part p with count := satInc (s.part p).count } },
        upi := s.upi.set p { s.upi.get p with shift := some s.settings.filler } } := by
  unfold presentFiller countByte presentByte
  ext1
  case upi => simp [State.updPart, ← hphase]
  all_goals rfl

end

/-- Settles O40. -/
theorem readsEndAndFill : Obligations.ReadsEndAndFill := by
  intro p s hp hd hhold ended counted shown
  refine ⟨fun hphase hstate c hc => ?ended, fun hphase => ?sends⟩
  case ended =>
    have hcount : ∀ act, inService (takeReadNinth p act) s = countByte p s := fun act => by
      simp only [List.mem_cons, List.not_mem_nil, or_false] at hstate
      rcases hstate with h | h | h | h <;> exact (exec_readNinth act hp h rfl hd hhold).2 hphase
    rcases hc with rfl | rfl <;> exact congrArg Host.Outcome.next (hcount _)
  case sends =>
    have hsends : ∀ act c, (s.session.get p).state = c → c.open = true → inService (takeReadNinth p act) s = act s :=
      fun act c h hopen => (exec_readNinth act hp h hopen hd hhold).1 hphase
    have hack : ∀ c t, (s.session.get p).state = c → c.open = true → askNext p s = t →
        exec (.upstreamReadAck p) s = .next t := fun c t h hopen ht =>
      congrArg Host.Outcome.next ((hsends _ c h hopen).trans ht)
    have hnack : ∀ c t, (s.session.get p).state = c → c.open = true → endRead p s = t →
        exec (.upstreamReadNack p) s = .next t := fun c t h hopen ht =>
      congrArg Host.Outcome.next ((hsends _ c h hopen).trans ht)
    have hend : (∀ g, (s.session.get p).state = .read → (s.session.get p).owned = some g →
        endRead p s = { s with upi := ended, seg := s.seg.set g (ninthClocked .nack (s.seg.get g)) }) := fun g h ho => by
      unfold endRead
      rw [h, ho]
      rfl
    refine ⟨fun g h ho => hnack _ _ h rfl (hend g h ho), fun h => ?filler, fun h => ?quiet, fun h => ?counts,
      fun h hl => ?slotEnd, fun b l h hl => ?slot⟩
    case filler =>
      have hfiller : presentFiller p s = shown s.settings.filler (s.readback.get p) := by
        rw [presentFiller_eq hphase]
        ext1
        case readback => exact (PerPort.set_get _ _).symm
        all_goals rfl
      rcases h with h | h
      · refine hack _ _ h rfl ?_
        unfold askNext
        rw [h]
        exact hfiller
      · refine hack _ _ h rfl ?_
        unfold askNext
        rw [h]
        exact hfiller
    case quiet =>
      rcases h with h | h
      · refine hnack _ _ h rfl ?_
        unfold endRead
        rw [h]
        rfl
      · refine hnack _ _ h rfl ?_
        unfold endRead
        rw [h]
        rfl
    case counts =>
      refine hnack _ _ h rfl ?_
      unfold endRead
      rw [h]
      ext1
      case readback => exact (PerPort.set_get _ _).symm
      all_goals rfl
    case slotEnd =>
      refine hack _ _ h rfl ?_
      unfold askNext presentSlotByte
      rw [h, hl]
      ext1
      case readback => 
        show s.readback = s.readback.set p []
        rw [← hl, PerPort.set_get]
      case upi => 
        show s.upi.set p { s.upi.get p with phase := .send, shift := some 0xFF } = _
        rw [← hphase]
      all_goals rfl
    case slot =>
      refine hack _ _ h rfl ?_
      unfold askNext
      rw [h]
      show presentSlotByte p s = _
      rw [presentSlotByte_cons hl, ← hphase]

/-- Settles O39. -/
theorem readByteRequested : Obligations.ReadByteRequested := by
  intro p g s hp hstate hd hhold hphase ho
  have hexec : exec (.upstreamReadAck p) s = .next (requestByte p g false s) := by
    refine congrArg Host.Outcome.next (((exec_readNinth _ hp hstate rfl hd hhold).1 hphase).trans ?_)
    unfold askNext
    rw [hstate, ho]
  rw [hexec]
  refine ⟨fun hpasses => ?_, fun i r o => ?_⟩
  · rw [requestByte_passes fun i hi => ?_]
    · rfl
    · obtain ⟨hwindow, hlength⟩ := hpasses i hi
      unfold State.readFaults dataFaults
      rw [windowFault_of_passes hwindow, lengthFault_of_passes hlength]
      rfl
  · intro e hentry hptr out atLimit long
    obtain rfl := hptr
    have hhead : out ∨ long → (s.readFaults p i).head? = some (r, s.pointerFor p i) := by
      unfold State.readFaults dataFaults
      rintro (⟨rfl, hm, w, x, hl, hx, hin⟩ | ⟨rfl, hwindow, w, hl, hn⟩)
      · rw [windowFault_of_out hm hl hx hin, hx]
        rfl
      · rw [windowFault_of_passes hwindow, lengthFault_of_limit hl hn]
        rfl
    refine ⟨fun ha howed hviolates => ?_, fun n h => ?_⟩
    · obtain ⟨j, hcut, hrequest⟩ := requestByte_cuts (g := g) (first := false) hentry ha (hhead hviolates)
      have hbank : j.bank = (s.session.get p).bank := hcut.bank
      rw [hrequest, if_neg Bool.false_ne_true, finishCut_of_held (by rw [State.under_session]; exact ho)
        (by rw [State.under_upi])]
      have hsession := State.cut_session (s.under p j) p g
      refine ⟨_, rfl, ?_, keepsOtherSegs_set rfl rfl, rfl, ?_, violationsCounted_of hcut.accounts,
        (keepsDevice_under hcut.holders hbank).trans (keepsDevice_cut _ p g)⟩
      · refine ⟨by rw [hsession], by rw [hsession], by rw [hsession], by simp [State.cut], by simp [State.cut]; rfl, ?_,
          by rw [hsession], by rw [hsession], ?_⟩
        · rw [State.part, hsession, State.under_part, hcut.part]
          rfl
        · rw [← releasing_ninthClocked howed]
          simp [State.cut, State.under]
      · exact hcut.queue.trans (judgeQueue_inHold s p (s.part p).sub r .cut _)
    · obtain ⟨ha, rest, hfaults, rfl⟩ : e.action = .logOnly ∧
          ∃ rest, s.readFaults p i = (r, s.pointerFor p i) :: rest ∧ n = rest.length + 1 := by
        unfold State.readFaults dataFaults
        rcases h with ⟨ha, ⟨⟨rfl, hm, w, x, hl, hx, hin⟩, hlimit⟩ | ⟨rfl, hwindow, w, hl, hn⟩, rfl⟩ |
          ⟨ha, ⟨rfl, hm, w, x, hl, hx, hin⟩, ⟨w', hl', hn⟩, rfl⟩
        · rw [windowFault_of_out hm hl hx hin, lengthFault_of_passes hlimit, hx]
          exact ⟨ha, [], rfl, rfl⟩
        · rw [windowFault_of_passes hwindow, lengthFault_of_limit hl hn]
          exact ⟨ha, [], rfl, rfl⟩
        · rw [windowFault_of_out hm hl hx hin, lengthFault_of_limit hl' hn, hx]
          exact ⟨ha, [_], rfl, rfl⟩
      obtain ⟨j, hrequest, hlogged⟩ := requestByte_logs (g := g) (first := false) hentry ha
      rw [hfaults] at hlogged
      have hbank : j.bank = (s.session.get p).bank := hlogged.bank
      have hpart : j.part = { s.part p with recorded := true } := by
        rw [hlogged.part]
        simp [State.inHold]
      rw [hrequest]
      refine ⟨_, rfl, ?_, rfl, rfl, rfl,
        hlogged.queue.trans (judgeQueue_inHold s p (s.part p).sub r .passed _), violationsCounted_of hlogged.accounts,
        keepsDevice_of rfl rfl hbank (State.under_bc (p := p) hlogged.holders) rfl rfl rfl
          ⟨rfl, rfl, rfl, rfl, rfl, rfl, rfl, rfl, rfl, rfl, rfl⟩⟩
      show (s.under p j).session.get p = _
      rw [State.under_session, hbank, hpart]

end Sys2Proof.Machine
end

section
/-!
PROOFS. What the target answers: address bytes, write bytes and read bytes (R31 to R36, R40, R68, R75 to R78).
-/

namespace Sys2Proof.Machine

section

variable {s : State} {p : Port} {g : SegId}

/-- What a target reports of a segment acts for the session that owns it (R47, R50). -/
theorem forOwner_of (hs : (s.seg.get g).owner = some p) (ho : (s.session.get p).owned = some g)
    (act : Port → State → State) : forOwner g act s = act p s := by
  unfold forOwner
  rw [hs]
  exact if_pos ho

/-! ## The pointer -/

/-- The state with the remembered pointer of a port's session replaced. -/
def State.pointed (s : State) (p : Port) (q : Option Pointer) : State :=
  { s with session := s.session.set p { s.session.get p with pointer := q } }

theorem nextOffset_eq (w : Width) (x : Half) : nextOffset w x = if w = .w1 then (x + 1) &&& 0x00FF else x + 1 := by
  cases w <;> rfl

/-- The pointer of the part's entry advances (R77). -/
theorem advancePointer_bound {i : EntryIdx} {x : Half} (hd : (s.part p).decision = some (.entry i))
    (hx : s.pointerFor p i = some x) :
    advancePointer p s =
      s.pointed p
        (some ⟨i, if (tableGet (s.judged p).entries i).width = .w1 then (x + 1) &&& 0x00FF else x + 1⟩) := by
  unfold advancePointer
  rw [hd]
  dsimp only [Decision.entry?]
  rw [hx, ← nextOffset_eq, ← State.width_of_entry hd]
  rfl

/-- A pointer that is not the part's entry's stays (R77). -/
theorem advancePointer_unbound (h : ∀ i, (s.part p).decision = some (.entry i) → s.pointerFor p i = none) :
    advancePointer p s = s.pointed p (s.session.get p).pointer := by
  have hself : s.pointed p (s.session.get p).pointer = s := by
    ext1
    case session => exact PerPort.set_get _ _
    all_goals rfl
  rw [hself]
  unfold advancePointer
  by_cases hentry : ∃ i, (s.part p).decision = some (.entry i)
  · obtain ⟨i, hd⟩ := hentry
    rw [hd]
    dsimp only [Decision.entry?]
    rw [h i hd]
  · rw [entry?_eq_none (not_exists.mp hentry)]

theorem advancePointer_eq (p : Port) (s : State) : ∃ q, advancePointer p s = s.pointed p q := by
  by_cases h : ∀ i, (s.part p).decision = some (.entry i) → s.pointerFor p i = none
  · exact ⟨_, advancePointer_unbound h⟩
  · obtain ⟨i, h⟩ := not_forall.mp h
    obtain ⟨hd, hx⟩ := Classical.not_imp.mp h
    obtain ⟨x, hx⟩ := Option.ne_none_iff_exists'.mp hx
    exact ⟨_, advancePointer_bound hd hx⟩

end

/-! ## Read bytes -/

/-- A state that has clocked a byte in from the target, with a pointer (R34, R77). -/
def State.received (s : State) (p : Port) (g : SegId) (q : Option Pointer) : State :=
  { s with
    session := s.session.set p { s.session.get p with pointer := q },
    seg := s.seg.set g { s.seg.get g with act := none, ninthOwed := true } }

/-- Byte 0 of a part cut there ends the part (R36, R91). -/
theorem received_cut {s : State} {p : Port} {g : SegId} {q : Option Pointer} :
    (s.received p g q).cut p g =
      { s.cut p g with seg := s.seg.set g { releasing (s.seg.get g) with ninthSent := some .nack } } := by
  ext1
  case session => simp [State.received, State.cut, State.part, State.limits]
  case seg => simp [State.received, State.cut, releasing, ninthClocked]
  all_goals rfl

theorem receiveByte_eq {s : State} {p : Port} {g : SegId} {b : Byte} {cut : Bool} {q : Option Pointer}
    (h : advancePointer p s = s.pointed p q) :
    receiveByte p g b cut s =
      if cut = true then finishCut p g (s.received p g q)
      else
        releaseHold p
          ((countByte p (presentByte p b (s.received p g q))).updPart p fun t =>
            { t with length := min 256 (t.length + 1) }) := by
  unfold receiveByte
  rw [h]
  rfl

/-- Settles O41: the pointer advances, then the byte is presented or the part, cut there, ends. -/
theorem readByteArrives : Obligations.ReadByteArrives := by
  intro p g b cut s hp hs ho hact hhold
  have hexec : exec (.readByteReceived g b) s = .next (receiveByte p g b cut s) := by
    refine congrArg Host.Outcome.next ((inService_eq _ hp).trans ?_)
    unfold takeReadByte
    rw [forOwner_of hs ho, hact]
  rw [hexec]
  refine ⟨fun hcut q hq => ?_, fun hcut => ?_⟩
  · have hpointer : advancePointer p s = s.pointed p q := by
      rcases hq with ⟨i, x, hd, hx, rfl⟩ | ⟨hnone, rfl⟩
      · exact advancePointer_bound hd hx
      · exact advancePointer_unbound hnone
    rw [receiveByte_eq hpointer, if_neg (by simp [hcut]), releaseHold_of_held
      (by simpa [presentByte, countByte, State.updPart, State.received] using hhold)]
    refine congrArg Host.Outcome.next ?_
    ext1
    case session => simp [presentByte, countByte, State.updPart, State.received, State.part, State.limits]
    case upi => simp [presentByte, countByte, State.updPart, State.received]
    all_goals rfl
  · obtain ⟨q, hpointer⟩ := advancePointer_eq p s
    have howned : ((s.received p g q).session.get p).owned = some g := by simpa [State.received] using ho
    rw [receiveByte_eq hpointer, if_pos hcut, finishCut_of_held howned (by exact hhold), received_cut]
    have hsession := State.cut_session s p g
    refine ⟨_, rfl, ⟨by rw [hsession], by rw [hsession], by rw [hsession], ?_, ?_, ?_, by rw [hsession], by rw [hsession],
      ?_⟩, keepsOtherSegs_set rfl rfl, rfl, ⟨rfl, rfl, rfl⟩, rfl, keepsDevice_cut s p g⟩
    · simp [State.cut]
    · simp [State.cut]
    · show ((s.cut p g).part p).count = _
      rw [State.part, hsession]
    · simp

/-! ## Write bytes -/

/-- A state whose port's byte has been acknowledged upstream, its hold ended, with a pointer (R31, R32). -/
def State.relayed (s : State) (p : Port) (g : SegId) (q : Option Pointer) : State :=
  { s with
    session := s.session.set p
      { s.session.get p with stretch := none, abandon := some (s.limits p).abandon, pointer := q },
    upi := s.upi.set p { s.upi.get p with hold := false, ninth := some .ack },
    seg := s.seg.set g { s.seg.get g with act := none } }

section

variable {s : State} {p : Port} {g : SegId}

theorem releaseWith_relayed (h : (s.upi.get p).hold = true) :
    releaseWith p .ack (s.updSeg g fun c => { c with act := none }) = s.relayed p g (s.session.get p).pointer :=
  releaseWith_of_held h

variable (s p g) (q : Option Pointer)

@[simp] theorem State.relayed_part : (s.relayed p g q).part p = s.part p := by simp [State.part, State.relayed]

theorem State.relayed_session :
    (s.relayed p g q).session.get p =
      { s.session.get p with stretch := none, abandon := some (s.limits p).abandon, pointer := q } := by
  simp [State.relayed]

@[simp] theorem State.relayed_judged : (s.relayed p g q).judged p = s.judged p := by
  rw [State.judged, State.judgedId, State.relayed_session]
  rfl

theorem State.relayed_width : (s.relayed p g q).width p = s.width p := by
  unfold State.width State.partEntry
  rw [State.relayed_part, State.relayed_judged]

theorem State.relayed_pointerFor (i : EntryIdx) :
    (s.relayed p g (s.session.get p).pointer).pointerFor p i = s.pointerFor p i := by
  unfold State.pointerFor
  rw [State.relayed_session]

theorem State.relayed_pointed (q' : Option Pointer) : (s.relayed p g q).pointed p q' = s.relayed p g q' := by
  ext1
  case session => simp [State.pointed, State.relayed]
  all_goals rfl

end

/-- Without an entry the acknowledge of a byte leaves the pointer (R75). -/
theorem writeAcknowledged_noEntry {s : State} {p : Port} (h : ∀ i, (s.part p).decision ≠ some (.entry i)) :
    writeAcknowledged p s = s := by
  unfold writeAcknowledged
  rw [entry?_eq_none h]

/-- The acknowledge of the last sub-address byte sets the pointer, that of a data byte advances it (R76, R77). -/
theorem writeAcknowledged_entry {s : State} {p : Port} {i : EntryIdx} (hd : (s.part p).decision = some (.entry i)) :
    writeAcknowledged p s =
      if (tableGet (s.judged p).entries i).width ≠ .w0 ∧ (s.part p).length = 0 then
        s.pointed p (some ⟨i, subAddress (s.part p).sub⟩)
      else advancePointer p s := by
  unfold writeAcknowledged
  rw [hd, State.width_of_entry hd]
  rfl

/-- Settles O38. -/
theorem targetAnswersWriteByte : Obligations.TargetAnswersWriteByte := by
  intro p g byte rest s hp hs ho hact hhold answered
  have hexec : ∀ a t, takeWriteAnswer g a s = t → exec (.targetWriteAnswer g a) s = .next t := fun a t h =>
    congrArg Host.Outcome.next ((inService_eq _ hp).trans h)
  have hnack : takeWriteAnswer g .nack s = s.nacked p := by
    unfold takeWriteAnswer
    rw [forOwner_of hs ho, hact]
    exact endWithNack_of_held hhold
  have hlast : rest = [] → takeWriteAnswer g .ack s = writeAcknowledged p (s.relayed p g (s.session.get p).pointer) := by
    rintro rfl
    unfold takeWriteAnswer
    rw [forOwner_of hs ho, hact]
    exact congrArg (writeAcknowledged p) (releaseWith_relayed hhold)
  have howned : (s.session.get p).unseated.pointer = none ∧ (s.session.get p).unseated.remembered = none := by
    unfold Session.unseated
    rw [if_neg (by rw [ho]; nofun)]
    exact ⟨rfl, rfl⟩
  have hentry : ∀ {i}, (s.part p).decision = some (.entry i) →
      writeAcknowledged p (s.relayed p g (s.session.get p).pointer) =
        if (tableGet (s.judged p).entries i).width ≠ .w0 ∧ (s.part p).length = 0 then
          s.relayed p g (some ⟨i, subAddress (s.part p).sub⟩)
        else advancePointer p (s.relayed p g (s.session.get p).pointer) := fun {i} hd => by
    rw [writeAcknowledged_entry (by simpa using hd), State.relayed_judged, State.relayed_part, State.relayed_pointed]
  have hadvances : ∀ {i}, (s.part p).length ≠ 0 ∨ (tableGet (s.judged p).entries i).width = .w0 →
      ¬((tableGet (s.judged p).entries i).width ≠ .w0 ∧ (s.part p).length = 0) := fun h hn =>
    h.elim (fun hlen => hlen hn.2) hn.1
  refine ⟨⟨_, hexec _ _ hnack, discarding_nacked s p, released_nacked s p, rfl, ?_, ?_, ⟨rfl, rfl, rfl⟩, rfl,
    keepsDevice_nacked s p⟩, fun b more hr => hexec _ _ ?_, fun hr hnone => hexec _ _ ((hlast hr).trans ?_),
    fun i hr hd => ⟨fun x hlen hx => hexec _ _ ((hlast hr).trans ?_), fun h => ⟨fun x hx => hexec _ _ ((hlast hr).trans ?_),
      fun hx => hexec _ _ ((hlast hr).trans ?_)⟩⟩⟩
  · rw [State.nacked_session]
    exact howned.1
  · rw [State.nacked_session]
    exact howned.2
  · obtain rfl := hr
    unfold takeWriteAnswer
    rw [forOwner_of hs ho, hact]
    rfl
  · exact writeAcknowledged_noEntry (by simpa using hnone)
  · have hwidth : (tableGet (s.judged p).entries i).width ≠ .w0 ∧ subAddress (s.part p).sub = x := by
      rcases hx with ⟨b, hw, hsub, rfl⟩ | ⟨b, c, hw, hsub, rfl⟩
      · exact ⟨fun h => by simp [h] at hw, by rw [hsub]; rfl⟩
      · exact ⟨fun h => by simp [h] at hw, by rw [hsub]; rfl⟩
    rw [hentry hd, if_pos ⟨hwidth.1, hlen⟩, hwidth.2]
    rfl
  · rw [hentry hd, if_neg (hadvances h), advancePointer_bound (by simpa using hd) ((s.relayed_pointerFor p g i).trans hx),
      State.relayed_judged, State.relayed_pointed]
    rfl
  · rw [hentry hd, if_neg (hadvances h), advancePointer_unbound, State.relayed_session]
    · exact State.relayed_pointed s p g _ _
    · intro l hl
      rw [State.relayed_part, hd] at hl
      obtain rfl : i = l := by simpa using hl
      exact (s.relayed_pointerFor p g i).trans hx

end Sys2Proof.Machine
end

section
/-!
PROOFS. The target's answer to an address byte (R31, R34, R36, R40, R68, R86, R92).
-/

namespace Sys2Proof.Machine

/-- An account after a hit (R68, R121). -/
def EntryAccount.hit (a : EntryAccount) : EntryAccount := { a with hits := satInc a.hits }

/-- The accounts after a hit of the entry that decides a port's part, if one does (R68). -/
def State.hitAccounts (s : State) (p : Port) : PerBank (Vector EntryAccount 128) :=
  match Decision.entry? (s.part p).decision with
  | some i => accountsWith s.accounts (s.judgedId p) i .hit
  | none => s.accounts

/-- A state whose port's address has been acknowledged, the part in WRITE (R31, R40). -/
def State.writeBegun (s : State) (p : Port) (g : SegId) : State :=
  { s with
    accounts := s.hitAccounts p,
    session := s.session.set p
      { s.session.get p with
        state := .write, stretch := none, abandon := some (s.limits p).abandon,
        remembered :=
          if (s.part p).kind = .ten then some ⟨(s.part p).address, g⟩ else (s.session.get p).remembered },
    upi := s.upi.set p { s.upi.get p with hold := false, ninth := some .ack },
    seg := s.seg.set g { s.seg.get g with act := none } }

/-- A state whose port's address has been acknowledged, the part in READ, no byte requested yet (R34). -/
def State.readBegun (s : State) (p : Port) (g : SegId) : State :=
  { s with
    accounts := s.hitAccounts p,
    session := s.session.set p
      { s.session.get p with state := .read, stretch := none, abandon := some (s.limits p).abandon },
    upi := s.upi.set p { s.upi.get p with hold := false, ninth := some .ack, phase := .send },
    seg := s.seg.set g { s.seg.get g with act := none } }

section

variable {s : State} {p : Port} {g : SegId}

theorem hitCounted (k : BankId) (i : EntryIdx) :
    tableGet ((s.hitAccounts p).get k) i =
      if k = s.judgedId p ∧ (s.part p).decision = some (.entry i) then (tableGet (s.accounts.get k) i).hit
      else tableGet (s.accounts.get k) i := by
  unfold State.hitAccounts
  by_cases hentry : ∃ l, (s.part p).decision = some (.entry l)
  · obtain ⟨l, hd⟩ := hentry
    rw [hd]
    show tableGet ((accountsWith _ _ l _).get k) i = _
    rw [tableGet_accountsWith]
    simp [eq_comm]
  · rw [entry?_eq_none (not_exists.mp hentry), if_neg fun h => hentry ⟨i, h.2⟩]

/-- The state after a hit of the entry that decides a port's part, if one does (R68). -/
def State.hitCounted (s : State) (p : Port) : State := { s with accounts := s.hitAccounts p }

/-- The part enters WRITE, its 10-bit address remembered (R31, R40). -/
def enterWrite (p : Port) (g : SegId) (s : State) : State :=
  match (s.part p).kind with
  | .ten => (s.setSessionState p .write).updSession p fun e => { e with remembered := some ⟨e.part.address, g⟩ }
  | .seven => s.setSessionState p .write

/-- The part enters its data phase, its address acknowledged (R31, R34, R40). -/
def beginData (p : Port) (g : SegId) (s : State) : State :=
  match (s.part p).direction with
  | .write => enterWrite p g s
  | .read => requestByte p g true ((s.setSessionState p .read).updUpi p fun u => { u with phase := .send })

theorem setSessionState_part (c : SessionState) : (s.setSessionState p c).part p = s.part p := by
  simp [State.part, State.setSessionState]

/-- The ACK of the last address byte counts a hit, answers the byte and begins the data phase (R31, R68). -/
theorem addressAcknowledged_eq (hhold : (s.upi.get p).hold = true) :
    addressAcknowledged p g s = beginData p g ((s.hitCounted p).relayed p g (s.session.get p).pointer) := by
  have hrelayed : releaseWith p .ack ((s.hitCounted p).updSeg g fun c => { c with act := none }) =
      (s.hitCounted p).relayed p g (s.session.get p).pointer := releaseWith_relayed hhold
  rw [← hrelayed]
  unfold addressAcknowledged beginData enterWrite
  simp only [setSessionState_part]
  unfold State.hitCounted State.hitAccounts
  cases Decision.entry? (s.part p).decision <;> rfl

variable (hhold : (s.upi.get p).hold = true)
include hhold

theorem addressAcknowledged_write (hd : (s.part p).direction = .write) :
    addressAcknowledged p g s = s.writeBegun p g := by
  have hdirection : (((s.hitCounted p).relayed p g (s.session.get p).pointer).part p).direction = .write := by
    rw [State.relayed_part]
    exact hd
  have hkind : ((s.hitCounted p).relayed p g (s.session.get p).pointer).part p = s.part p := State.relayed_part ..
  rw [addressAcknowledged_eq hhold]
  unfold beginData enterWrite
  rw [hdirection, hkind]
  unfold State.writeBegun
  cases hk : (s.part p).kind with
  | ten =>
    ext1
    case session => simp [State.setSessionState, State.relayed, State.hitCounted, State.part, State.limits]
    all_goals rfl
  | seven =>
    ext1
    case session => simp [State.setSessionState, State.relayed, State.hitCounted, State.limits]
    all_goals rfl

theorem addressAcknowledged_read (hd : (s.part p).direction = .read) :
    addressAcknowledged p g s = requestByte p g true (s.readBegun p g) := by
  have hdirection : (((s.hitCounted p).relayed p g (s.session.get p).pointer).part p).direction = .read := by
    rw [State.relayed_part]
    exact hd
  rw [addressAcknowledged_eq hhold]
  unfold beginData
  rw [hdirection]
  refine congrArg (requestByte p g true) ?_
  ext1
  case session => simp [State.setSessionState, State.relayed, State.hitCounted, State.limits, State.readBegun]
  case upi => simp [State.setSessionState, State.relayed, State.hitCounted, State.readBegun]
  all_goals rfl

end

/-! ## The request for byte 0 -/

section

variable (s : State) (p : Port) (g : SegId)

theorem State.readBegun_session :
    (s.readBegun p g).session.get p =
      { s.session.get p with state := .read, stretch := none, abandon := some (s.limits p).abandon } := by
  simp [State.readBegun]

@[simp] theorem State.readBegun_part : (s.readBegun p g).part p = s.part p := by
  rw [State.part, State.readBegun_session]
  rfl

theorem State.readBegun_judgedId : (s.readBegun p g).judgedId p = s.judgedId p := by
  rw [State.judgedId, State.readBegun_session]
  rfl

theorem State.readBegun_judged : (s.readBegun p g).judged p = s.judged p := by
  rw [State.judged, State.readBegun_judgedId]
  rfl

theorem State.readBegun_pointerFor (i : EntryIdx) : (s.readBegun p g).pointerFor p i = s.pointerFor p i := by
  rw [State.pointerFor, State.readBegun_session]
  rfl

theorem State.readBegun_readFaults (i : EntryIdx) : (s.readBegun p g).readFaults p i = s.readFaults p i := by
  unfold State.readFaults
  rw [State.readBegun_judged, State.readBegun_pointerFor, State.readBegun_part]

theorem State.readBegun_queueWith (r : Reason) (o : RecordOutcome) (x : Option Half) :
    (s.readBegun p g).queueWith p r o x = s.queueWith p r o x :=
  queueWith_congr p r o x s _ (s.readBegun_part p g) rfl (s.readBegun_judged p g)

theorem keepsDevice_readBegun : KeepsDevice p s (s.readBegun p g) :=
  keepsDevice_of rfl rfl rfl rfl rfl rfl rfl ⟨rfl, rfl, rfl, rfl, rfl, rfl, rfl, rfl, rfl, rfl, rfl⟩

end

/-- Byte 0 of a read has been asked for, inside the hold that its address acknowledge began (R34, R36). -/
structure ByteZeroAsked (p : Port) (g : SegId) (j : Judgement) (a : SegAct) (s t : State) : Prop where
  state : (t.session.get p).state = .read
  holding : Holding p s t
  ninth : (t.upi.get p).ninth = some .ack
  owned : (t.session.get p).owned = some g
  part : t.part p = j.part
  act : (t.seg.get g).act = some a
  segState : (t.seg.get g).state = (s.seg.get g).state
  others : KeepsOtherSegs g s t
  segCounters : t.segCounters = s.segCounters
  device : KeepsDevice p s t

theorem byteZeroAsked_of {s : State} {p : Port} {g : SegId} {j : Judgement} {c : Segment} {a : SegAct}
    (ho : (s.session.get p).owned = some g) (hbank : j.bank = (s.session.get p).bank)
    (hholders : j.holders = s.bc.holders) (hact : c.act = some a) (hsame : c.state = (s.seg.get g).state) :
    ByteZeroAsked p g j a s
      { (s.readBegun p g).under p j with seg := (s.readBegun p g).seg.set g c } := by
  have hsession := State.under_session (s.readBegun p g) p j
  have hupi := State.under_upi (s.readBegun p g) p j
  have hdevice : KeepsDevice p s ((s.readBegun p g).under p j) :=
    (keepsDevice_readBegun s p g).trans (keepsDevice_under hholders (by rw [State.readBegun_session]; exact hbank))
  constructor
  case state => dsimp only; rw [hsession, State.readBegun_session]
  case holding => refine ⟨?_, ?_, ?_⟩ <;> dsimp only <;> simp only [hsession, hupi]; rfl
  case ninth => dsimp only; rw [hupi]; simp [State.readBegun]
  case owned => dsimp only; rw [hsession, State.readBegun_session]; exact ho
  case part => exact State.under_part _ p j
  case act => simpa using hact
  case segState => simpa using hsame
  case others => exact keepsOtherSegs_set (PerSeg.set_set _ _ _ _) rfl
  case segCounters => rfl
  case device => exact hdevice

/-- Settles O37. -/
theorem targetAnswersAddress : Obligations.TargetAnswersAddress := by
  intro p g restart byte rest s hp hstate hs ho hact hhold d HitCounted
  have hexec : ∀ a t, takeAddressAnswer g a s = t → exec (.targetAddressAnswer g a) s = .next t := fun a t h =>
    congrArg Host.Outcome.next ((inService_eq _ hp).trans h)
  have hnack : takeAddressAnswer g .nack s = s.nacked p := by
    unfold takeAddressAnswer
    rw [forOwner_of hs ho, hact]
    exact endWithNack_of_held hhold
  have hlast : rest = [] → takeAddressAnswer g .ack s = addressAcknowledged p g s := by
    rintro rfl
    unfold takeAddressAnswer
    rw [forOwner_of hs ho, hact]
  have hcaptured : ((s.readBegun p g).session.get p).bank = (s.session.get p).bank := by rw [State.readBegun_session]
  have hclocked : ∀ a, (ninthClocked a ((s.readBegun p g).seg.get g)).state = (s.seg.get g).state := fun a => by
    unfold ninthClocked
    split <;> simp [State.readBegun]
  refine ⟨⟨_, hexec _ _ hnack, discarding_nacked s p, released_nacked s p, rfl, ⟨rfl, rfl, rfl⟩, rfl,
    keepsDevice_nacked s p⟩, fun b more hr => hexec _ _ ?more, fun hr hd => ?write, fun hr hd hpasses => ?read,
    fun i x l o cut hr hd hentry => ?faulty⟩
  case more =>
    obtain rfl := hr
    unfold takeAddressAnswer
    rw [forOwner_of hs ho, hact]
    rfl
  case write =>
    refine ⟨_, hexec _ _ ((hlast hr).trans (addressAcknowledged_write hhold hd)), ?_, ⟨?_, ?_, ?_⟩, ?_, ?_, ?_, ?_, ?_, ?_,
      keepsOtherSegs_set rfl rfl, rfl, hitCounted, ⟨rfl, rfl, rfl⟩,
      keepsDevice_of rfl rfl rfl rfl rfl rfl rfl ⟨rfl, rfl, rfl, rfl, rfl, rfl, rfl, rfl, rfl, rfl, rfl⟩⟩
    all_goals simp [State.writeBegun, State.part, ho]
  case read =>
    refine ⟨_, hexec _ _ ((hlast hr).trans ((addressAcknowledged_read hhold hd).trans (requestByte_passes ?_))), ?_⟩
    · intro i hi
      obtain ⟨hwindow, hlength⟩ := hpasses i (by simpa using hi)
      rw [State.readBegun_readFaults]
      unfold State.readFaults dataFaults
      rw [windowFault_of_passes hwindow, lengthFault_of_passes hlength]
      rfl
    · have hasked : ByteZeroAsked p g ((s.readBegun p g).inHold p ((s.readBegun p g).part p)) (.receive false) s
          ((s.readBegun p g).fetching p g ((s.readBegun p g).inHold p ((s.readBegun p g).part p))) :=
        byteZeroAsked_of ho (by rw [← hcaptured]; rfl) rfl rfl (hclocked .ack)
      exact ⟨hasked.state, hasked.holding, hasked.ninth, hasked.owned, hasked.part.trans (s.readBegun_part p g),
        hasked.act, hasked.segState, hasked.others, hasked.segCounters, hitCounted, ⟨rfl, rfl, rfl⟩, hasked.device⟩
  case faulty =>
    intro e hchecked hmode hlist hx hout
    have hfault : windowFault (s.judged p) .readWindow
        (listIn .everyByte (tableGet (s.judged p).entries i) (tableGet (s.judged p).entries i).readList) (s.pointerFor p i) =
          some (.readWindow, some x) := windowFault_of_out hmode hlist hx hout
    have hcounted : ∀ {a}, a = accountsWith (s.hitAccounts p) ((s.readBegun p g).judgedId p) i (.violated 1) → ∀ k l,
        tableGet (a.get k) l =
          if k = s.judgedId p ∧ l = i then
            { tableGet (s.accounts.get k) l with
              hits := satInc (tableGet (s.accounts.get k) l).hits,
              violations := satInc (tableGet (s.accounts.get k) l).violations }
          else tableGet (s.accounts.get k) l := by
      rintro a rfl k l
      have hhits : s.hitAccounts p = accountsWith s.accounts (s.judgedId p) i .hit := by
        unfold State.hitAccounts
        rw [show (s.part p).decision = some (.entry i) from hentry]
        rfl
      rw [State.readBegun_judgedId, hhits, accountsWith_accountsWith, tableGet_accountsWith]
      rfl
    rcases hchecked with ⟨ha, rfl, rfl⟩ | ⟨ha, hlength, rfl, rfl⟩
    · obtain ⟨j, hcut, hrequest⟩ := requestByte_cuts (s := s.readBegun p g) (g := g) (first := true) (i := i)
        (r := .readWindow) (x := some x) (by rw [State.readBegun_part]; exact hentry) (by rw [State.readBegun_judged]; exact ha) (by
          rw [State.readBegun_readFaults]
          unfold State.readFaults dataFaults
          rw [hfault]
          rfl)
      refine ⟨_, hexec _ _ ((hlast hr).trans ((addressAcknowledged_read hhold hd).trans hrequest)), ?_⟩
      have hasked : ByteZeroAsked p g j (.receive true) s
          { (s.readBegun p g).under p j with
            seg := (s.readBegun p g).seg.set g { (s.readBegun p g).seg.get g with act := some (.receive true) } } :=
        byteZeroAsked_of ho (hcut.bank.trans hcaptured) hcut.holders rfl (by simp [State.readBegun])
      refine ⟨hasked.state, hasked.holding, hasked.act, hasked.owned, ?_, ?_, hcounted hcut.accounts, hasked.others,
        hasked.segCounters, hasked.device⟩
      · exact (congrArg Part.recorded hasked.part).trans (by rw [hcut.part])
      · exact (hcut.queue.trans (judgeQueue_inHold _ p _ _ _ _)).trans (s.readBegun_queueWith p g _ _ _)
    · obtain ⟨j, hrequest, hlogged⟩ := requestByte_logs (s := s.readBegun p g) (g := g) (first := true) (i := i)
        (by rw [State.readBegun_part]; exact hentry) (by rw [State.readBegun_judged]; exact ha)
      refine ⟨_, hexec _ _ ((hlast hr).trans ((addressAcknowledged_read hhold hd).trans hrequest)), ?_⟩
      have hfaults : (s.readBegun p g).readFaults p i = [(.readWindow, some x)] := by
        rw [State.readBegun_readFaults]
        unfold State.readFaults dataFaults
        rw [hfault, lengthFault_of_passes hlength]
        rfl
      rw [hfaults] at hlogged
      have hasked : ByteZeroAsked p g j (.receive false) s ((s.readBegun p g).fetching p g j) :=
        byteZeroAsked_of ho (hlogged.bank.trans hcaptured) hlogged.holders rfl (hclocked .ack)
      refine ⟨hasked.state, hasked.holding, hasked.act, hasked.owned, ?_, ?_, hcounted hlogged.accounts, hasked.others,
        hasked.segCounters, hasked.device⟩
      · exact (congrArg Part.recorded hasked.part).trans (by rw [hlogged.part]; simp)
      · exact (hlogged.queue.trans (judgeQueue_inHold _ p _ _ _ _)).trans (s.readBegun_queueWith p g _ _ _)

end Sys2Proof.Machine
end

section
/-!
PROOFS. The stretch and wait timers of a held part (R30, R47, R99, R101).
-/

namespace Sys2Proof.Machine

/-- What an answer to a part sets of a session is none of what the end of an ownership clears. -/
theorem Session.unseated_answered (e : Session) (c : SessionState) (t : Part) (x w y : Option Byte) :
    ({ e with state := c, part := t, stretch := x, wait := w, abandon := y } : Session).unseated =
      { e.unseated with state := c, part := t, stretch := x, wait := w, abandon := y } := by
  unfold Session.unseated
  dsimp only
  split <;> rfl

/-- A state whose port's held part was ended by NACK and a record, its segment given up (R47, R101). -/
def State.timedOut (s : State) (p : Port) (t : Part) (q : ViolationQueue) (f : PerPort AlertFlags) (a : PerPort Level) :
    State :=
  { s with
    queue := q, flags := f, alert := a,
    session := s.session.set p
      { (s.session.get p).unseated with
        state := .discard, wait := none, stretch := none, abandon := some (s.limits p).abandon,
        part := { t with held := none } },
    upi := s.upi.set p
      { phase := answerPhase t.direction, hold := false, shift := discardShift s.settings.filler t.direction,
        ninth := some .nack },
    seg := s.segGivenUp p }

theorem discarding_timedOut {s : State} {p : Port} {t : Part} {q : ViolationQueue} {f : PerPort AlertFlags}
    {a : PerPort Level} : Discarding p (s.timedOut p t q f a) := by
  apply discarding_of
  all_goals simp [State.timedOut, State.part]

section

variable {s : State} {p : Port} (hhold : (s.upi.get p).hold = true)
include hhold

theorem timedOut_connect (hstate : (s.session.get p).state = .connect) (r : Reason) :
    ∃ f a, giveUpSegment p (answerPart p r s) =
      s.timedOut p { s.part p with recorded := true, decision := some (.refused r) }
        (s.queueWith p r .refused none) f a := by
  obtain ⟨f, a, h⟩ := refuseAddress_of_held p r none s hhold
  refine ⟨f, a, ?_⟩
  have hunseated := Session.unseated_answered (s.session.get p) .discard
    { s.part p with recorded := true, held := none, decision := some (.refused r) } none none (some (s.limits p).abandon)
  unfold answerPart
  rw [hstate]
  dsimp only
  rw [h, giveUpSegment_eq]
  ext1
  case session => simp [State.refusedState, State.timedOut, hunseated]
  case seg => exact PerSeg.ext_get fun g => by simp [State.refusedState, State.timedOut]
  all_goals rfl

theorem timedOut_write (hstate : (s.session.get p).state = .write) (r : Reason) :
    ∃ f a, giveUpSegment p (answerPart p r s) =
      s.timedOut p { s.part p with recorded := true } (s.queueWith p r .cut none) f a := by
  obtain ⟨f, a, h⟩ := makeRecord_eq p r .cut none s
  refine ⟨f, a, ?_⟩
  have hunseated := Session.unseated_answered (s.session.get p) .discard
    { s.part p with recorded := true, held := none } none none (some (s.limits p).abandon)
  have hheld : ((makeRecord p r .cut none s).upi.get p).hold = true := by rw [h]; exact hhold
  unfold answerPart
  rw [hstate]
  dsimp only
  rw [if_pos hheld, releaseWith_of_held hheld, h, enterDiscard_eq, giveUpSegment_eq]
  ext1
  case session => simpa [State.timedOut, State.part, State.limits] using congrArg (s.session.set p) hunseated
  case upi => simp [State.timedOut, State.part]
  case seg => exact PerSeg.ext_get fun g => by simp [State.timedOut]
  all_goals rfl

end

/-- A state whose port's held read was ended by a record and the filler byte, its segment given up (R45, R47, R101). -/
def State.timedOutRead (s : State) (p : Port) (q : ViolationQueue) (f : PerPort AlertFlags) (a : PerPort Level) : State :=
  { s with
    queue := q, flags := f, alert := a,
    session := s.session.set p
      { (s.session.get p).unseated with
        state := .fill, stretch := none, abandon := some (s.limits p).abandon,
        part := { s.part p with recorded := true, count := satInc (s.part p).count } },
    upi := s.upi.set p { s.upi.get p with hold := false, phase := .send, shift := some s.settings.filler },
    seg := s.segGivenUp p }

theorem timedOut_read {s : State} {p : Port} (hhold : (s.upi.get p).hold = true)
    (hstate : (s.session.get p).state = .read) (r : Reason) :
    ∃ f a, giveUpSegment p (answerPart p r s) = s.timedOutRead p (s.queueWith p r .cut none) f a := by
  obtain ⟨f, a, h⟩ := makeRecord_eq p r .cut none s
  refine ⟨f, a, ?_⟩
  have hunseated := Session.unseated_answered (s.session.get p) .fill
    { s.part p with recorded := true, count := satInc (s.part p).count } none (s.session.get p).wait
    (some (s.limits p).abandon)
  have hheld : ((makeRecord p r .cut none s).upi.get p).hold = true := by rw [h]; exact hhold
  unfold answerPart
  rw [hstate]
  dsimp only
  rw [if_pos hheld, releaseHold_of_held (by simpa [presentFiller, presentByte, countByte, State.updPart] using hheld), h,
    giveUpSegment_eq]
  ext1
  case session => simpa [State.timedOutRead, State.part, State.limits, presentFiller, presentByte, countByte, enterFill, State.setSessionState, State.updPart] using congrArg (s.session.set p) hunseated
  case upi => simp [State.timedOutRead, presentFiller, presentByte, countByte, enterFill, State.setSessionState, State.updPart]
  case seg => exact PerSeg.ext_get fun g => by simp [State.timedOutRead, presentFiller, presentByte, countByte, enterFill, State.setSessionState, State.updPart]
  all_goals rfl

/-- Settles O42. -/
theorem heldPartTimesOut : Obligations.HeldPartTimesOut := by
  intro p s hp hhold e
  have hstretches : ∀ t, takeStretchExpiry p s = t → exec (.stretchTimerExpiry p) s = .next t := fun t h =>
    congrArg Host.Outcome.next ((inService_eq _ hp).trans h)
  have hwaits : ∀ t, takeWaitExpiry p s = t → exec (.waitTimerExpiry p) s = .next t := fun t h =>
    congrArg Host.Outcome.next ((inService_eq _ hp).trans h)
  refine ⟨fun c g hc hstate hg ho => ?wait, fun hstretch hstate => ?answered, fun hstretch hstate => ?read,
    fun hstretch => hstretches _ ?noStretch, fun hwait => hwaits _ ?noWait⟩
  case noStretch =>
    unfold takeStretchExpiry
    exact if_neg (by rw [show (s.session.get p).stretch = none from hstretch]; decide)
  case noWait =>
    unfold takeWaitExpiry
    refine if_neg fun h => ?_
    rcases hwait with hw | hw
    · rw [show (s.session.get p).wait = none from hw] at h
      exact absurd h.2 (by decide)
    · exact hw h.1
  case wait =>
    have hexec : exec c s = .next (refuseWaiting p .grantTimeout s) := by
      rcases hc with ⟨rfl, hw⟩ | ⟨rfl, hstretch⟩
      · exact hwaits _ (if_pos ⟨hstate, hw⟩)
      · refine hstretches _ ?_
        unfold takeStretchExpiry
        rw [if_pos hstretch, show (s.session.get p).state = .grantWait from hstate]
    have hwithdrawn : withdraw p s =
        { s with
          seg := s.seg.set g
            { s.seg.get g with
              waiters := (s.seg.get g).waiters.erase p, deferred := (s.seg.get g).deferred.erase (.request p) } } := by
      unfold withdraw
      rw [hg]
      rfl
    obtain ⟨f, a, h⟩ := refuseAddress_of_held p .grantTimeout none (withdraw p s) (by rw [hwithdrawn]; exact hhold)
    have hqueue : (withdraw p s).queueWith p .grantTimeout .refused none = s.queueWith p .grantTimeout .refused none := by
      rw [hwithdrawn]
      rfl
    rw [hexec]
    unfold refuseWaiting
    rw [h, hqueue, hwithdrawn]
    refine ⟨_, rfl, discarding_refusedState ho, ?_, ?_, keepsOtherSegs_set rfl rfl, rfl, rfl, rfl,
      keepsDevice_of rfl rfl rfl rfl rfl rfl rfl ⟨rfl, rfl, rfl, rfl, rfl, rfl, rfl, rfl, rfl, rfl, rfl⟩⟩
    all_goals simp [State.refusedState, State.part]
  case answered =>
    have hexec : exec (.stretchTimerExpiry p) s = .next (giveUpSegment p (answerPart p .targetTimeout s)) := by
      refine hstretches _ ?_
      unfold takeStretchExpiry
      rw [if_pos hstretch]
      rcases hstate with h | h <;> rw [show (s.session.get p).state = _ from h]
    obtain ⟨u, f, a, hdecision, h⟩ : ∃ u f a,
        Part.decision u = (if e.state = .connect then some (.refused .targetTimeout) else (s.part p).decision) ∧
        giveUpSegment p (answerPart p .targetTimeout s) =
          s.timedOut p u (s.queueWith p .targetTimeout (if e.state = .connect then .refused else .cut) none) f a := by
      rcases hstate with hc | hw
      · obtain ⟨f, a, h⟩ := timedOut_connect hhold hc .targetTimeout
        rw [if_pos hc, if_pos hc]
        exact ⟨_, f, a, rfl, h⟩
      · obtain ⟨f, a, h⟩ := timedOut_write hhold hw .targetTimeout
        rw [if_neg (by rw [hw]; decide), if_neg (by rw [hw]; decide)]
        exact ⟨{ s.part p with recorded := true }, f, a, rfl, h⟩
    rw [hexec, h]
    have hpointer : (s.session.get p).unseated.pointer = if e.owned = none then e.pointer else none :=
      Session.unseated_pointer _
    refine ⟨_, rfl, discarding_timedOut, fun g => s.get_segGivenUp p g, ?_, ?_, rfl, rfl, rfl,
      keepsDevice_of rfl rfl (Session.unseated_bank _) rfl rfl rfl rfl
        ⟨rfl, rfl, rfl, rfl, rfl, rfl, rfl, rfl, rfl, rfl, rfl⟩⟩
    · rw [← hdecision]
      simp [State.timedOut, State.part]
    · rw [← hpointer]
      simp [State.timedOut]
  case read =>
    obtain ⟨f, a, h⟩ := timedOut_read hhold hstate .targetTimeout
    have hexec : exec (.stretchTimerExpiry p) s = .next (giveUpSegment p (answerPart p .targetTimeout s)) := by
      refine hstretches _ ?_
      unfold takeStretchExpiry
      rw [if_pos hstretch, show (s.session.get p).state = .read from hstate]
    rw [hexec, h]
    refine ⟨_, rfl, ?_, ?_, ⟨?_, ?_, ?_⟩, ?_, ?_, fun g => s.get_segGivenUp p g, rfl, rfl, rfl,
      keepsDevice_of rfl rfl (Session.unseated_bank _) rfl rfl rfl rfl
        ⟨rfl, rfl, rfl, rfl, rfl, rfl, rfl, rfl, rfl, rfl, rfl⟩⟩
    all_goals simp [State.timedOutRead, State.part]

end Sys2Proof.Machine
end

section
/-!
PROOFS. A segment lost by its session (R50, R78, R99, R107 to R109, R154).
-/

namespace Sys2Proof.Machine

/-! ## The latched segment event -/

/-- SEGMENT_EVENT is latched for both ports, and their alert lines have the levels their conditions give (R154, R157). -/
def State.showsEvent (s : State) : Prop := ∀ q, (s.flags.get q).segmentEvent = true ∧ s.alert.get q = s.alertLevel q

theorem State.showsEvent.congr {s t : State} (h : s.showsEvent) (hflags : t.flags = s.flags) (halert : t.alert = s.alert)
    (hqueue : t.queue = s.queue) (hsettings : t.settings = s.settings) : t.showsEvent := fun q => by
  rw [hflags, halert, alertLevel_congr q hsettings hqueue (by rw [hflags])]
  exact h q

theorem appendViolation_showsEvent {s : State} (v : Violation) (h : s.showsEvent) : (appendViolation v s).showsEvent := by
  refine fun q => ⟨?_, appendViolation_alert v s q⟩
  unfold appendViolation
  split
  · simpa using (h q).1
  · have hup0 := (h .up0).1
    have hup1 := (h .up1).1
    cases q <;> simpa [latchOverflow]

theorem makeRecord_showsEvent {p : Port} {r : Reason} {o : RecordOutcome} {x : Option Half} {s : State}
    (h : s.showsEvent) : (makeRecord p r o x s).showsEvent := by
  unfold makeRecord
  split
  · exact h
  · exact (appendViolation_showsEvent _ h).congr rfl rfl rfl rfl

theorem releaseHold_showsEvent {p : Port} {s : State} (h : s.showsEvent) : (releaseHold p s).showsEvent := by
  unfold releaseHold
  split
  · exact h.congr rfl rfl rfl rfl
  · exact h

theorem releaseWith_showsEvent {p : Port} {a : Ack} {s : State} (h : s.showsEvent) : (releaseWith p a s).showsEvent :=
  releaseHold_showsEvent (h.congr rfl rfl rfl rfl)

/-! ## The answer to the owner's part -/

/-- The Violation Queue after the record of a loss, if the part it ends makes one (R50, R93). -/
def State.lostIn (s : State) (p : Port) (q : ViolationQueue) : ViolationQueue :=
  if (s.session.get p).state = .connect then s.recordedIn p .segmentLost .refused q
  else if (s.session.get p).state = .write ∨ (s.session.get p).state = .read then s.recordedIn p .segmentLost .cut q
  else q

/-- The session and the line of a port whose part is answered by its phase after a loss (R50). -/
structure LossLine (p : Port) (s t : State) : Prop where
  kept : t.session.get p =
    { s.session.get p with
      state := (t.session.get p).state, part := t.part p, wait := (t.session.get p).wait,
      stretch := (t.session.get p).stretch, abandon := (t.session.get p).abandon }
  discarding : (s.session.get p).state = .connect ∨ (s.session.get p).state = .write → (s.upi.get p).hold = true →
    (s.session.get p).owned = none → Discarding p t
  refused : (s.session.get p).state = .connect → (t.part p).decision = some (.refused .segmentLost)
  write : (s.session.get p).state = .write → (s.upi.get p).hold = false →
    (t.session.get p).state = .discard ∧ (t.part p).held = none ∧ (t.upi.get p).hold = false ∧
      (t.upi.get p).ninth = (s.upi.get p).ninth ∧ (t.session.get p).stretch = (s.session.get p).stretch ∧
      (t.session.get p).abandon = (s.session.get p).abandon
  read : (s.session.get p).state = .read → (s.upi.get p).hold = false →
    (t.session.get p).state = .fill ∧ t.upi.get p = s.upi.get p ∧ (t.part p).count = (s.part p).count
  readHeld : (s.session.get p).state = .read → (s.upi.get p).hold = true →
    (t.session.get p).state = .fill ∧ Freed p s t ∧ (t.upi.get p).shift = some s.settings.filler
  address : (s.session.get p).state = .address → (t.session.get p).state = .address ∧ t.upi.get p = s.upi.get p

/-- A port's part answered by its phase after a loss; nothing changes but its session, its line and the records (R50). -/
structure LossAnswered (p : Port) (s t : State) : Prop where
  line : LossLine p s t
  others : t =
    { s with
      upi := s.upi.set p (t.upi.get p), session := s.session.set p (t.session.get p), flags := t.flags,
      alert := t.alert, queue := s.lostIn p s.queue }
  shows : s.showsEvent → t.showsEvent

/-- A loss answers a pending address or write byte with NACK, a requested read byte with the filler byte (R50). -/
theorem answerPart_lost (p : Port) (s : State) (hstate : (s.session.get p).state ≠ .grantWait) :
    LossAnswered p s (answerPart p .segmentLost s) := by
  unfold answerPart
  cases hs : (s.session.get p).state with
  | grantWait => exact absurd hs hstate
  | connect =>
    have hqueue : s.lostIn p s.queue = s.queueWith p .segmentLost .refused none := by
      unfold State.lostIn
      rw [if_pos hs]
      rfl
    have hshows : s.showsEvent → (refuseAddress p .segmentLost none s).showsEvent := fun h =>
      have hdecided : ((makeRecord p .segmentLost .refused none s).updPart p
          fun t => { t with decision := some (.refused .segmentLost) }).showsEvent :=
        (makeRecord_showsEvent h).congr rfl rfl rfl rfl
      (releaseWith_showsEvent hdecided).congr rfl rfl rfl rfl
    obtain ⟨f, a, h⟩ := refuseAddress_eq p .segmentLost none s
    dsimp only
    constructor
    case shows => exact hshows
    case' line => constructor
    all_goals rw [h]
    case discarding =>
      intro _ hhold ho
      rw [if_pos hhold]
      exact discarding_of (by simp) (by simpa using ho) (by simp) (by simp [hhold]) (by simp [State.part]) (by simp [State.part])
    case refused => simp [State.part]
    case others => rw [hqueue]; simp
    case kept => simp [State.part]
    all_goals simp [hs]
  | write =>
    have hqueue : s.lostIn p s.queue = s.queueWith p .segmentLost .cut none := by
      unfold State.lostIn
      rw [if_neg (by rw [hs]; decide), if_pos (.inl hs)]
      rfl
    obtain ⟨f, a, h⟩ := makeRecord_eq p .segmentLost .cut none s
    have hmade : s.showsEvent → (makeRecord p .segmentLost .cut none s).showsEvent := makeRecord_showsEvent
    have hline : (makeRecord p .segmentLost .cut none s).upi = s.upi := by rw [h]
    dsimp only
    rw [hline]
    cases hhold : (s.upi.get p).hold with
    | true =>
      rw [if_pos rfl]
      constructor
      case shows => exact fun hshows => (releaseWith_showsEvent (hmade hshows)).congr rfl rfl rfl rfl
      case' line => constructor
      all_goals rw [releaseWith_of_held (by rw [hline]; exact hhold), enterDiscard_eq, h]
      case discarding =>
        intro _ _ ho
        exact discarding_of (by simp) (by simpa using ho) (by simp) (by simp) (by simp [State.part]) (by simp [State.part])
      case others => rw [hqueue]; simp
      case kept => simp [State.part]
      all_goals simp [hs, hhold]
    | false =>
      rw [if_neg Bool.false_ne_true]
      constructor
      case shows => exact fun hshows => (hmade hshows).congr rfl rfl rfl rfl
      case' line => constructor
      all_goals rw [enterDiscard_eq, h]
      case others => rw [hqueue]; simp
      case kept => simp [State.part]
      all_goals simp [hs, hhold, State.part]
  | read =>
    have hqueue : s.lostIn p s.queue = s.queueWith p .segmentLost .cut none := by
      unfold State.lostIn
      rw [if_neg (by rw [hs]; decide), if_pos (.inr hs)]
      rfl
    obtain ⟨f, a, h⟩ := makeRecord_eq p .segmentLost .cut none s
    have hmade : s.showsEvent → (makeRecord p .segmentLost .cut none s).showsEvent := makeRecord_showsEvent
    have hline : (makeRecord p .segmentLost .cut none s).upi = s.upi := by rw [h]
    dsimp only
    rw [hline]
    cases hhold : (s.upi.get p).hold with
    | true =>
      rw [if_pos rfl]
      constructor
      case shows =>
        intro hshows
        have hfiller : (presentFiller p (makeRecord p .segmentLost .cut none s)).showsEvent :=
          (hmade hshows).congr rfl rfl rfl rfl
        exact (releaseHold_showsEvent hfiller).congr rfl rfl rfl rfl
      case' line => constructor
      all_goals
        rw [releaseHold_of_held (by simp [presentFiller, presentByte, countByte, State.updPart, hline, hhold]), h]
        unfold presentFiller presentByte countByte enterFill State.setSessionState State.updPart
      case others => rw [hqueue]; ext1 <;> simp
      case kept => simp [State.part]
      all_goals simp [hs, hhold, Freed, State.limits]
    | false =>
      rw [if_neg Bool.false_ne_true]
      constructor
      case shows => exact fun hshows => (hmade hshows).congr rfl rfl rfl rfl
      case' line => constructor
      all_goals
        rw [h]
        unfold enterFill State.setSessionState
      case others => rw [hqueue]; ext1 <;> simp
      case kept => simp [State.part]
      all_goals simp [hs, hhold, State.part]
  | idle | address | mgmt | discard | fill =>
    have hqueue : s.lostIn p s.queue = s.queue := by simp [State.lostIn, hs]
    dsimp only
    constructor
    case shows => exact id
    case' line => constructor
    case kept => rfl
    case others => rw [hqueue, PerPort.set_get, PerPort.set_get]
    all_goals simp [hs]

/-- The outcome of a loss for its owner rests on the session and the line of the port, and the settings. -/
theorem LossLine.congr {p : Port} {s t s' t' : State} (h : LossLine p s t)
    (hs : s'.session.get p = s.session.get p) (hu : s'.upi.get p = s.upi.get p) (hr : s'.settings = s.settings)
    (ht : t'.session.get p = t.session.get p) (hv : t'.upi.get p = t.upi.get p) (hr' : t'.settings = t.settings) :
    LossLine p s' t' := by
  obtain ⟨h₁, h₂, h₃, h₄, h₅, h₆, h₇⟩ := h
  unfold Discarding Freed State.limits State.part at *
  constructor <;> simp only [Discarding, Freed, State.limits, State.part, hs, hu, hr, ht, hv, hr'] <;> assumption

/-! ## The loss -/

/-- A state whose session has lost its segment, its part not answered yet (R50, R78). -/
def State.dispossessed (s : State) (p : Port) (n : Nat) : State :=
  { s with
    choice := n,
    session := s.session.set p { s.session.get p with owned := none, pointer := none, remembered := none } }

/-- A segment lost and quarantined, its owner and its waiters answered (R50, R99, R107 to R109). -/
structure LossDone (p : Port) (g : SegId) (s t : State) : Prop where
  line : LossLine p (s.dispossessed p s.choice) t
  seg : t.seg = s.seg.set g
    { s.seg.get g with
      state := if (s.seg.get g).disablePending then .disabled else .quarantined, owner := none, waiters := [],
      reason := if (s.seg.get g).disablePending then .none else .foreign, disablePending := false, hold := none,
      act := none, ninthOwed := false }
  segCounters : t.segCounters = s.segCounters.set g
    { s.segCounters.get g with quarantines := satInc (s.segCounters.get g).quarantines }
  shows : t.showsEvent
  refused : ∀ q ∈ (s.seg.get g).waiters, Discarding q t ∧ (t.part q).decision = some (.refused .segmentUnavailable)
  other : p.other ∉ (s.seg.get g).waiters → KeepsPort p.other s t
  queue : t.queue = s.refusedIn (s.seg.get g).waiters (s.lostIn p s.queue) ∨
    t.queue = s.lostIn p (s.refusedIn (s.seg.get g).waiters s.queue)
  jobs : JobsReported g (if (s.seg.get g).disablePending then .disabled else .quarantined)
    (if (s.seg.get g).disablePending then .none else .foreign) s t
  bank : t.bank = s.bank ∧ t.bc = s.bc ∧ t.accounts = s.accounts ∧ t.refill = s.refill
  rest : t.portCounters = s.portCounters ∧ t.settings = s.settings ∧ t.parser = s.parser ∧ t.holder = s.holder ∧
    t.idle = s.idle

section

variable {s : State} {p : Port} {g : SegId} {n : Nat}

theorem dispossessed_lostIn (q : ViolationQueue) : (s.dispossessed p n).lostIn p q = s.lostIn p q := by
  have hpart : (s.dispossessed p n).part p = s.part p := by simp [State.part, State.dispossessed]
  have hjudged : (s.dispossessed p n).judged p = s.judged p := by simp [State.judged, State.judgedId, State.dispossessed]
  unfold State.lostIn State.recordedIn State.violationOf
  rw [hpart, hjudged]
  simp [State.dispossessed]

/-- A waiter of the lost segment is not its owner. -/
theorem not_waiter_of_owner (ho : (s.session.get p).owned = some g) {l : List Port} (hw : s.waitersHeld l) : p ∉ l :=
  fun hp => by simpa [ho] using (hw.2 p hp).2

/-- The dispossessed session is the only part of state that a loss has changed before its answers. -/
theorem dispossessed_port {q : Port} (hq : q ≠ p) : KeepsPort q s (s.dispossessed p n) := by
  simp [KeepsPort, State.dispossessed, hq]

/-- An answer to the owner's part leaves every other port as it was. -/
theorem LossAnswered.keepsPort {t : State} (h : LossAnswered p s t) {q : Port} (hq : q ≠ p) : KeepsPort q s t := by
  have hsession := congrArg State.session h.others
  have hupi := congrArg State.upi h.others
  exact ⟨by rw [hsession]; simp [hq], by rw [hupi]; simp [hq]⟩

theorem KeepsPort.part {q : Port} {s t : State} (h : KeepsPort q s t) : t.part q = s.part q := by
  rw [State.part, h.1]
  rfl

theorem KeepsPort.judged {q : Port} {s t : State} (h : KeepsPort q s t) (hbank : t.bank = s.bank) (hbc : t.bc = s.bc) :
    t.judged q = s.judged q := by
  rw [State.judged, State.judgedId, h.1, hbank, hbc]
  rfl

theorem KeepsPort.lostIn {s t : State} (h : KeepsPort p s t) (hbank : t.bank = s.bank) (hbc : t.bc = s.bc)
    (q : ViolationQueue) : t.lostIn p q = s.lostIn p q := by
  unfold State.lostIn State.recordedIn State.violationOf
  rw [h.part, h.judged hbank hbc, h.1]

theorem KeepsPort.trans {q : Port} {s t u : State} (h : KeepsPort q s t) (h' : KeepsPort q t u) : KeepsPort q s u :=
  ⟨h'.1.trans h.1, h'.2.trans h.2⟩

theorem waitersHeld_congr {l : List Port} {t : State} (h : s.waitersHeld l) (hl : ∀ q ∈ l, KeepsPort q s t) :
    t.waitersHeld l :=
  ⟨h.1, fun q hq => by rw [(hl q hq).1, (hl q hq).2]; exact h.2 q hq⟩

variable (ho : (s.session.get p).owned = some g) (hstate : (s.session.get p).state ≠ .grantWait)
  (hw : s.waitersHeld (s.seg.get g).waiters)
include ho hstate hw

/-- The owner is answered before the waiters (log entry 10). -/
theorem lossDone_ownerFirst :
    LossDone p g s (enterQuarantine g .foreign (answerPart p .segmentLost (s.dispossessed p n))) := by
  have hanswer := answerPart_lost p (s.dispossessed p n) (by simpa [State.dispossessed] using hstate)
  generalize answerPart p .segmentLost (s.dispossessed p n) = w at hanswer
  have hnot := not_waiter_of_owner ho hw
  have hothers := hanswer.others
  have hseg : w.seg = s.seg := (congrArg State.seg hothers :)
  have hcounters : w.segCounters = s.segCounters := (congrArg State.segCounters hothers :)
  have hbank : w.bank = s.bank := (congrArg State.bank hothers :)
  have hbc : w.bc = s.bc := (congrArg State.bc hothers :)
  have hqueue : w.queue = s.lostIn p s.queue := (congrArg State.queue hothers).trans (dispossessed_lostIn _)
  have hport : ∀ q, q ≠ p → KeepsPort q s w := fun q hq => (dispossessed_port hq).trans (hanswer.keepsPort hq)
  have hwaiters : ∀ q ∈ (s.seg.get g).waiters, KeepsPort q s w := fun q hq => hport q fun h => hnot (h ▸ hq)
  obtain ⟨t, ht, heq, hshows, -, hrefused, hjobs⟩ := enterQuarantine_eq g .foreign w
    (by rw [hseg]; exact waitersHeld_congr hw hwaiters)
  rw [hseg] at hrefused
  rw [ht]
  constructor
  case line =>
    obtain ⟨hsession, hupi⟩ := hrefused.2 p hnot
    exact hanswer.line.congr rfl rfl rfl hsession hupi (congrArg State.settings heq :)
  case seg => exact (congrArg State.seg heq).trans (by rw [hseg])
  case segCounters => exact (congrArg State.segCounters heq).trans (by rw [hcounters])
  case shows => exact hshows
  case refused => exact hrefused.1
  case other => exact fun hn => (hport _ (Port.other_ne p)).trans (hrefused.2 _ hn)
  case queue =>
    refine .inl ((congrArg State.queue heq).trans ?_)
    rw [hseg, hqueue]
    exact refusedIn_congr _ _ _ _ fun q hq => ⟨(hwaiters q hq).part, (hwaiters q hq).judged hbank hbc⟩
  case jobs =>
    intro q
    rw [hseg] at hjobs
    rw [hjobs q]
    exact jobAfter_congr g _ _ q s w (congrArg State.job hothers :) (congrArg State.slot hothers :) fun l _ => by rw [hseg]
  case bank =>
    exact ⟨(congrArg State.bank heq).trans hbank, (congrArg State.bc heq).trans hbc,
      (congrArg State.accounts heq).trans (congrArg State.accounts hothers :),
      (congrArg State.refill heq).trans (congrArg State.refill hothers :)⟩
  case rest =>
    exact ⟨(congrArg State.portCounters heq).trans (congrArg State.portCounters hothers :),
      (congrArg State.settings heq).trans (congrArg State.settings hothers :),
      (congrArg State.parser heq).trans (congrArg State.parser hothers :),
      (congrArg State.holder heq).trans (congrArg State.holder hothers :),
      (congrArg State.idle heq).trans (congrArg State.idle hothers :)⟩

/-- The waiters are answered before the owner (log entry 10). -/
theorem lossDone_waitersFirst :
    LossDone p g s (answerPart p .segmentLost (enterQuarantine g .foreign (s.dispossessed p n))) := by
  have hnot := not_waiter_of_owner ho hw
  have hport : ∀ q, q ≠ p → KeepsPort q s (s.dispossessed p n) := fun q hq => dispossessed_port hq
  have hwaiters : ∀ q ∈ (s.seg.get g).waiters, KeepsPort q s (s.dispossessed p n) := fun q hq =>
    hport q fun h => hnot (h ▸ hq)
  obtain ⟨v, hv, heq, hshows, -, hrefused, hjobs⟩ := enterQuarantine_eq g .foreign (s.dispossessed p n)
    (waitersHeld_congr hw hwaiters)
  rw [hv]
  have howner : KeepsPort p (s.dispossessed p n) v := hrefused.2 p hnot
  have hanswer := answerPart_lost p v (by rw [howner.1]; simpa [State.dispossessed] using hstate)
  generalize answerPart p .segmentLost v = t at hanswer
  have hothers := hanswer.others
  have hkept : ∀ q, q ≠ p → KeepsPort q v t := fun q hq => hanswer.keepsPort hq
  have hsettings : t.settings = v.settings := (congrArg State.settings hothers :)
  have hbank : t.bank = s.bank := (congrArg State.bank hothers).trans (congrArg State.bank heq :)
  have hbc : t.bc = s.bc := (congrArg State.bc hothers).trans (congrArg State.bc heq :)
  constructor
  case line =>
    exact hanswer.line.congr howner.1.symm howner.2.symm (congrArg State.settings heq :).symm rfl rfl rfl
  case seg => exact (congrArg State.seg hothers).trans (congrArg State.seg heq :)
  case segCounters => exact (congrArg State.segCounters hothers).trans (congrArg State.segCounters heq :)
  case shows => exact hanswer.shows hshows
  case refused =>
    intro q hq
    obtain ⟨hsession, hupi⟩ := hkept q fun h => hnot (h ▸ hq)
    have hq' := hrefused.1 q hq
    unfold Discarding State.part at hq' ⊢
    rw [hsession, hupi, hsettings]
    exact hq'
  case other => exact fun hn => (hport _ (Port.other_ne p)).trans ((hrefused.2 _ hn).trans (hkept _ (Port.other_ne p)))
  case queue =>
    refine .inr ((congrArg State.queue hothers).trans ?_)
    rw [howner.lostIn (congrArg State.bank heq :) (congrArg State.bc heq :), dispossessed_lostIn,
      (congrArg State.queue heq :)]
    exact congrArg (s.lostIn p) (refusedIn_congr _ _ _ _ fun q hq => ⟨(hwaiters q hq).part, (hwaiters q hq).judged rfl rfl⟩)
  case jobs =>
    intro q
    rw [show (t.slot.get q, t.job.get q) = (v.slot.get q, v.job.get q) by rw [hothers], hjobs q]
    exact jobAfter_congr g _ _ q s _ rfl rfl fun l _ => rfl
  case bank =>
    exact ⟨hbank, hbc, (congrArg State.accounts hothers).trans (congrArg State.accounts heq :),
      (congrArg State.refill hothers).trans (congrArg State.refill heq :)⟩
  case rest =>
    exact ⟨(congrArg State.portCounters hothers).trans (congrArg State.portCounters heq :),
      hsettings.trans (congrArg State.settings heq :),
      (congrArg State.parser hothers).trans (congrArg State.parser heq :),
      (congrArg State.holder hothers).trans (congrArg State.holder heq :),
      (congrArg State.idle hothers).trans (congrArg State.idle heq :)⟩

theorem lossDone : LossDone p g s (loseSegment p g s) := by
  unfold loseSegment
  dsimp only
  split
  · split
    · exact lossDone_ownerFirst (n := s.choice + 1) ho hstate hw
    · exact lossDone_waitersFirst (n := s.choice + 1) ho hstate hw
  · exact lossDone_ownerFirst (n := s.choice) ho hstate hw

end

/-- Settles O48. -/
theorem lossQuarantines : Obligations.LossQuarantines := by
  intro p g cause s hp e o hs hown ho hstate hw x why own
  have hexec : exec (.loss g cause) s = .next (loseSegment p g s) := by
    refine congrArg Host.Outcome.next ((inService_eq _ hp).trans ?_)
    unfold takeLoss
    rw [if_pos hs, forOwner_of hown ho]
  have hdone := lossDone ho hstate hw
  have hsession : (s.dispossessed p s.choice).session.get p =
      { s.session.get p with owned := none, pointer := none, remembered := none } := by simp [State.dispossessed]
  have hupi : (s.dispossessed p s.choice).upi = s.upi := rfl
  obtain ⟨hkept, hdiscarding, hrefused, hwrite, hread, hreadHeld, haddress⟩ := hdone.line
  simp only [hsession, hupi] at hkept hdiscarding hrefused hwrite hread hreadHeld haddress
  have hpart : (s.dispossessed p s.choice).part p = s.part p := by rw [State.part, hsession]; rfl
  obtain ⟨hbank, haccounts, hrefill, hcounters⟩ := hdone.bank
  refine ⟨_, hexec, ?_, ?_, ?_, ?_, ?_, ?_, ?_, hdone.shows, fun h hh => hdiscarding h hh trivial, hrefused, hwrite,
    fun h hh => ?_, hreadHeld, haddress, hdone.refused, hdone.other, hdone.queue, hdone.jobs, hbank,
    haccounts, hrefill, hcounters, hdone.rest⟩
  · rw [hkept]
  · rw [hkept]
  · rw [hkept]
  · rw [hkept]
  · rw [hdone.seg]
    simp [x, why, o]
  · rw [hdone.segCounters]
    simp
  · intro l hl
    rw [hdone.seg, hdone.segCounters]
    simp [hl]
  · rw [← hpart]
    exact hread h hh

end Sys2Proof.Machine
end

section
/-!
PROOFS. The STOP of a close procedure or of a release: the segment it leaves, and what waited for it (R30, R49, R98 to R100, R102,
R104, R109, R112, R168).
-/

namespace Sys2Proof.Machine

/-! ## The segment a STOP leaves -/

/-- A state whose segment takes the STOP that formed, the deferred list taken off it and its counters set (R100, R104). -/
def State.stopFormed (s : State) (g : SegId) (k : SegCounters) : State :=
  { s with seg := s.seg.set g { s.seg.get g with deferred := [] }, segCounters := s.segCounters.set g k }

/-- A segment in IDLE after a STOP (R100, R104). -/
def idled (c : Segment) : Segment :=
  { c with deferred := [], state := .idle, owner := none, hold := none, act := none, ninthOwed := false }

/-- A state whose segment is in IDLE after a STOP, the commands that wait on it told (R100, R104, R168). -/
def State.settled (s : State) (g : SegId) (k : SegCounters) : State :=
  { s with
    seg := s.seg.set g (idled (s.seg.get g)), segCounters := s.segCounters.set g k,
    slot := ⟨(s.jobAfter g .idle .none .up0).1, (s.jobAfter g .idle .none .up1).1⟩,
    job := ⟨(s.jobAfter g .idle .none .up0).2, (s.jobAfter g .idle .none .up1).2⟩ }

/-- A state whose segment was granted to its head waiter in the event of the STOP (R98). -/
def State.regranted (s : State) (g : SegId) (k : SegCounters) (p : Port) : State :=
  { s.settled g k with
    session := s.session.set p { s.session.get p with state := .connect, owned := some g, wait := none },
    seg := s.seg.set g (granted p (s.settings.speed.get g) (s.part p).bytes (idled (s.seg.get g))),
    segCounters := s.segCounters.set g { k with grants := satInc k.grants } }

section

variable (s : State) (g : SegId) (k : SegCounters)

theorem settled_jobsReported : JobsReported g .idle .none s (s.settled g k) :=
  jobsReported_of g .idle .none s s rfl rfl fun _ _ => rfl

theorem settleSegment_idle (hd : (s.seg.get g).disablePending = false) :
    settleSegment g (s.stopFormed g k) = grantHead g (s.settled g k) := by
  unfold settleSegment
  rw [if_neg (by simp [State.stopFormed, hd]), completeJobs_eq _ _ _ _ (by simp)]
  refine congrArg (grantHead g) ?_
  have hjobs : ∀ p, ((s.stopFormed g k).updSeg g fun c =>
      { c with state := .idle, owner := none, hold := none, act := none, ninthOwed := false }).jobAfter g .idle .none p =
      s.jobAfter g .idle .none p := fun p =>
    jobAfter_congr g .idle .none p s _ rfl rfl fun h hne => by simp [State.stopFormed, hne]
  rw [hjobs, hjobs]
  ext1
  case seg => simp [State.stopFormed, State.settled, idled]
  all_goals rfl

theorem grantHead_nil (h : (s.seg.get g).waiters = []) : grantHead g (s.settled g k) = s.settled g k := by
  unfold grantHead
  rw [show ((s.settled g k).seg.get g).waiters = [] by simpa [State.settled, idled] using h]

theorem grantHead_cons {p : Port} {rest : List Port} (h : (s.seg.get g).waiters = p :: rest) :
    grantHead g (s.settled g k) = s.regranted g k p := by
  unfold grantHead
  rw [show ((s.settled g k).seg.get g).waiters = p :: rest by simpa [State.settled, idled] using h]
  dsimp only
  rw [grantSegment_eq]
  ext1
  case seg => simp [State.settled, State.regranted, State.part]
  case segCounters => simp [State.settled, State.regranted]
  all_goals rfl

end

/-! ## The STOP -/

section

variable {s : State} {g : SegId} (hp : s.phase = .inService)
include hp

theorem exec_closes (hs : (s.seg.get g).state = .closing) (ht : (s.seg.get g).step = .three)
    (hd : (s.seg.get g).deferred = []) :
    exec (.closeStopEnd g .formed) s = .next
      (settleSegment g (s.stopFormed g
        (if (s.seg.get g).pulses ≠ 0 then
          { s.segCounters.get g with recoveries := satInc (s.segCounters.get g).recoveries }
        else s.segCounters.get g))) := by
  refine congrArg Host.Outcome.next ((inService_eq _ hp).trans ?_)
  unfold takeCloseStop
  rw [if_pos ⟨hs, ht⟩]
  refine congrArg (settleSegment g) ?_
  have hsame : s.seg.set g { s.seg.get g with deferred := [] } = s.seg := by rw [← hd]; exact PerSeg.set_get _ _
  by_cases hn : (s.seg.get g).pulses = 0
  · rw [if_pos hn, if_neg (not_not.mpr hn)]
    ext1
    case seg => exact hsame.symm
    case segCounters => exact (PerSeg.set_get _ _).symm
    all_goals rfl
  · rw [if_neg hn, if_pos hn]
    ext1
    case seg => exact hsame.symm
    all_goals rfl

theorem exec_releaseStop (ha : (s.seg.get g).act = some .releaseStop) (ho : (s.seg.get g).owner = none) (r : StopResult) :
    exec (.releaseStopResult g r) s = .next
      (takeAllDeferred g (s.seg.get g).deferred (settleRelease g r (s.stopFormed g (s.segCounters.get g)))) := by
  refine congrArg Host.Outcome.next ((inService_eq _ hp).trans ?_)
  unfold takeReleaseStop
  rw [if_pos ⟨ha, ho⟩]
  refine congrArg (fun t => takeAllDeferred g (s.seg.get g).deferred (settleRelease g r t)) ?_
  ext1
  case segCounters => exact (PerSeg.set_get _ _).symm
  all_goals rfl

end

/-- A state whose segment's release failed and whose close procedure starts (R100). -/
def State.stopFailed (s : State) (g : SegId) : State :=
  { s with seg := s.seg.set g { closing s.settings g (s.seg.get g) with deferred := [] } }

/-- The STOP of a release that failed starts the close procedure (R100). -/
theorem settleRelease_failed {s : State} {g : SegId} {r : StopResult} (hr : r = .sclLow ∨ r = .sdaLow) :
    settleRelease g r (s.stopFormed g (s.segCounters.get g)) = s.stopFailed g := by
  have hclose : settleRelease g r (s.stopFormed g (s.segCounters.get g)) =
      startClose g (s.stopFormed g (s.segCounters.get g)) := by
    rcases hr with rfl | rfl <;> rfl
  rw [hclose]
  ext1
  case seg => simp [startClose, State.stopFormed, State.stopFailed, closing]
  case segCounters => exact PerSeg.set_get _ _
  all_goals rfl

end Sys2Proof.Machine
end

section
/-!
PROOFS. What reached a segment during the STOP of a release, taken after it (R30, R49, R98 to R100, R109, R168).
-/

namespace Sys2Proof.Machine

/-! ## A request behind another port or a close procedure -/

/-- A request on a segment that makes its port wait, or refuses it where the wait limit is 0 (R30, R98). -/
structure Joined (p : Port) (g : SegId) (s t : State) : Prop where
  seg : t.seg = s.seg.set g
    { s.seg.get g with
      waiters := if (s.limits p).wait = 0 then (s.seg.get g).waiters else (s.seg.get g).waiters ++ [p] }
  waits : (s.limits p).wait ≠ 0 →
    t.session.get p = { s.session.get p with state := .grantWait, wait := some (s.limits p).wait } ∧
      t.upi.get p = s.upi.get p ∧ KeepsRecords s t
  refused : (s.limits p).wait = 0 →
    Discarding p t ∧ (t.part p).decision = some (.refused .grantTimeout) ∧
      t.queue = s.recordedIn p .grantTimeout .refused s.queue
  other : KeepsPort p.other s t
  rest : t =
    { s with
      session := t.session, upi := t.upi, seg := t.seg, queue := t.queue, flags := t.flags, alert := t.alert }

theorem requestSegment_joins {p : Port} {g : SegId} {s : State} (hbusy : (s.seg.get g).busy)
    (hseg : (s.part p).segment = some g) (hn : p ∉ (s.seg.get g).seekers) (ho : (s.session.get p).owned = none)
    (hhold : (s.upi.get p).hold = true) : Joined p g s (requestSegment p g s) := by
  have hpart : (s.setSessionState p .grantWait).part p = s.part p := setSessionState_part _
  rw [requestSegment_of_busy hbusy]
  by_cases hw : (s.limits p).wait = 0
  · rw [joinWaiters_of_noLimit (s := s.setSessionState p .grantWait) hw (by rw [hpart]; exact hseg) hn]
    obtain ⟨f, a, h⟩ := refuseAddress_of_held p .grantTimeout none (s.setSessionState p .grantWait) hhold
    have hqueue : (s.setSessionState p .grantWait).queueWith p .grantTimeout .refused none =
        s.recordedIn p .grantTimeout .refused s.queue :=
      queueWith_congr p .grantTimeout .refused none s _ hpart rfl
        (by simp [State.judged, State.judgedId, State.setSessionState])
    rw [h, hqueue]
    constructor
    case seg => rw [if_pos hw]; exact (PerSeg.set_get _ _).symm
    case waits => exact fun hne => absurd hw hne
    case refused =>
      exact fun _ => ⟨discarding_refusedState (by simpa [State.setSessionState] using ho),
        by simp [State.refusedState, State.part], rfl⟩
    case other => simp [KeepsPort, State.refusedState, State.setSessionState]
    case rest => rfl
  · rw [joinWaiters_of_limit (s := s.setSessionState p .grantWait) hw]
    constructor
    case seg => rw [if_neg hw]; rfl
    case waits => exact fun _ => ⟨by simp [State.setSessionState]; rfl, rfl, rfl, rfl, rfl⟩
    case refused => exact fun hz => absurd hz hw
    case other => simp [KeepsPort, State.setSessionState]
    case rest => rfl

/-! ## The commands that wait on a segment disabled after its STOP -/

section

variable {s : State} {g : SegId} {k : SegCounters} {p : Port}

theorem settled_job : (s.settled g k).slot.get p = (s.jobAfter g .idle .none p).1 ∧
    (s.settled g k).job.get p = (s.jobAfter g .idle .none p).2 := by
  cases p <;> exact ⟨rfl, rfl⟩

/-- A command that does not wait on a segment goes on (R168). -/
theorem jobAfter_of_elsewhere {x : SegState} {r : QuarantineReason} (hd : s.job.get p ≠ some (.segmentDisable g))
    (he : s.job.get p ≠ some (.segmentEnable g)) (hr : s.job.get p ≠ some (.segmentRelease g))
    (hn : ∀ n l, s.job.get p = some (.abortAll n l) → g ∉ l) :
    s.jobAfter g x r p = (s.slot.get p, s.job.get p) := by
  unfold State.jobAfter
  cases hj : s.job.get p with
  | none => rfl
  | some j =>
    rw [hj] at hd he hr
    cases j with
    | commit | shadowReload => rfl
    | segmentDisable h => exact if_neg fun hg => hd (by rw [hg.1])
    | segmentEnable h => exact if_neg fun hg => he (by rw [hg])
    | segmentRelease h => exact if_neg fun hg => hr (by rw [hg])
    | abortAll n l => exact if_neg (hn n l hj)

/-- A SEGMENT_ENABLE or SEGMENT_RELEASE of a segment completes with its report (R110, R111). -/
theorem jobAfter_of_entered {x : SegState} {r : QuarantineReason}
    (h : s.job.get p = some (.segmentEnable g) ∨ s.job.get p = some (.segmentRelease g)) :
    s.jobAfter g x r p = (⟨.ok, [SegState.code x, QuarantineReason.code r]⟩, none) := by
  unfold State.jobAfter
  rcases h with h | h
  · rw [h]
    exact if_pos rfl
  · rw [h]
    exact if_pos rfl

/-- A SEGMENT_DISABLE still waits after the STOP, and completes when the segment is disabled (R109, R112). -/
theorem jobAfter_settled_disable (h : s.job.get p = some (.segmentDisable g)) :
    (s.settled g k).jobAfter g .disabled .none p = (⟨.ok, []⟩, none) := by
  have hwaits : s.jobAfter g .idle .none p = (s.slot.get p, s.job.get p) := by
    unfold State.jobAfter
    rw [h]
    exact if_neg (by simp)
  have hjob : (s.settled g k).job.get p = some (.segmentDisable g) := by rw [settled_job.2, hwaits]; exact h
  unfold State.jobAfter
  rw [hjob]
  exact if_pos ⟨rfl, rfl⟩

/-- Any other command that waits on this segment alone has completed with the STOP (R104, R110, R111). -/
theorem jobAfter_settled_other (h : s.job.get p ≠ some (.segmentDisable g))
    (hn : ∀ n l, s.job.get p = some (.abortAll n l) → g ∉ l) :
    (s.settled g k).jobAfter g .disabled .none p = s.jobAfter g .idle .none p := by
  have hslot := (settled_job (s := s) (g := g) (k := k) (p := p)).1
  have hjob := (settled_job (s := s) (g := g) (k := k) (p := p)).2
  by_cases hentered : s.job.get p = some (.segmentEnable g) ∨ s.job.get p = some (.segmentRelease g)
  · rw [jobAfter_of_entered hentered] at hslot hjob ⊢
    rw [jobAfter_of_elsewhere (by rw [hjob]; nofun) (by rw [hjob]; nofun) (by rw [hjob]; nofun) (by rw [hjob]; nofun),
      hslot, hjob]
  · obtain ⟨he, hr⟩ := not_or.mp hentered
    rw [jobAfter_of_elsewhere h he hr hn] at hslot hjob ⊢
    rw [jobAfter_of_elsewhere (by rw [hjob]; exact h) (by rw [hjob]; exact he) (by rw [hjob]; exact hr)
      (by rw [hjob]; exact hn), hslot, hjob]

end

end Sys2Proof.Machine
end

section
/-!
PROOFS. A STOP forms or fails: the statement about a segment that settles (R98 to R100, R102, R104, R109, R168).
-/

namespace Sys2Proof.Machine

section

variable {s t : State} {g : SegId} {k : SegCounters} {p : Port}

/-- What an event of one segment keeps: the other segments, the policy, the Bank Controller and the settings. -/
def SegmentKept (g : SegId) (s t : State) : Prop :=
  KeepsOtherSegs g s t ∧ KeepsPolicy s t ∧ t.bc = s.bc ∧ t.settings = s.settings ∧ t.parser = s.parser ∧
    t.holder = s.holder ∧ t.idle = s.idle

theorem keepsOtherSegs_sets {c : Segment} (hseg : t.seg = s.seg.set g c) (hcounters : t.segCounters = s.segCounters.set g k) :
    KeepsOtherSegs g s t := fun h hne => by
  rw [hseg, hcounters]
  simp [hne]

theorem SegmentKept.trans {u : State} (h : SegmentKept g s t) (h' : SegmentKept g t u) : SegmentKept g s u := by
  obtain ⟨hs, ⟨p₁, p₂, p₃, p₄⟩, h₁, h₂, h₃, h₄, h₅⟩ := h
  obtain ⟨hs', ⟨q₁, q₂, q₃, q₄⟩, k₁, k₂, k₃, k₄, k₅⟩ := h'
  exact ⟨fun l hl => ⟨(hs' l hl).1.trans (hs l hl).1, (hs' l hl).2.trans (hs l hl).2⟩,
    ⟨q₁.trans p₁, q₂.trans p₂, q₃.trans p₃, q₄.trans p₄⟩, k₁.trans h₁, k₂.trans h₂, k₃.trans h₃, k₄.trans h₄, k₅.trans h₅⟩

theorem settled_kept : SegmentKept g s (s.settled g k) :=
  ⟨keepsOtherSegs_sets rfl rfl, ⟨rfl, rfl, rfl, rfl⟩, rfl, rfl, rfl, rfl, rfl⟩

theorem regranted_kept : SegmentKept g s (s.regranted g k p) :=
  ⟨keepsOtherSegs_sets rfl rfl, ⟨rfl, rfl, rfl, rfl⟩, rfl, rfl, rfl, rfl, rfl⟩

theorem Joined.kept (h : Joined p g s t) : SegmentKept g s t :=
  have hrest := h.rest
  ⟨keepsOtherSegs_set h.seg (congrArg State.segCounters hrest :),
    ⟨(congrArg State.bank hrest :), (congrArg State.accounts hrest :), (congrArg State.refill hrest :),
      (congrArg State.portCounters hrest :)⟩,
    (congrArg State.bc hrest :), (congrArg State.settings hrest :), (congrArg State.parser hrest :),
    (congrArg State.holder hrest :), (congrArg State.idle hrest :)⟩

/-- The segment of a grant in the event of a STOP (R98, R113). -/
theorem regranted_seg {rest : List Port} (h : (s.seg.get g).waiters.erase p = rest) :
    (s.regranted g k p).seg.get g =
      { s.seg.get g with
        state := .owned, owner := some p, waiters := rest, deferred := [], speed := s.settings.speed.get g,
        hold := none, ninthOwed := false,
        act := some (.address false (targetBytes (s.part p).kind (s.part p).direction (s.part p).target).1
          (targetBytes (s.part p).kind (s.part p).direction (s.part p).target).2) } := by
  simp [State.regranted, granted, idled, h, Part.bytes]

theorem regranted_port : KeepsPort p.other s (s.regranted g k p) := by simp [KeepsPort, State.regranted, State.settled]

/-- A request on a segment that the STOP left in IDLE is granted at once (R98). -/
theorem requestSegment_settled : requestSegment p g (s.settled g k) = s.regranted g k p := by
  rw [requestSegment_of_idle (by simp [State.settled, idled])]
  ext1
  case seg => simp [State.settled, State.regranted, State.part]
  case segCounters => simp [State.settled, State.regranted]
  all_goals rfl

theorem settleSegment_disabled (hd : (s.seg.get g).disablePending = true) :
    settleSegment g (s.stopFormed g k) = enterDisabled g (s.stopFormed g k) := by
  unfold settleSegment
  exact if_pos (by simpa [State.stopFormed] using hd)

end

theorem applyDisable_idle {s : State} {g : SegId} (h : (s.seg.get g).state = .idle) :
    applyDisable g s = enterDisabled g s := by
  unfold applyDisable
  rw [h]

theorem applyDisable_closing {s : State} {g : SegId} (h : (s.seg.get g).state = .closing) :
    applyDisable g s = pendDisable g s := by
  unfold applyDisable
  rw [h]

theorem applyDisable_owned {s : State} {g : SegId} {p : Port} (h : (s.seg.get g).state = .owned)
    (ho : (s.seg.get g).owner = some p) : applyDisable g s = pendDisable g (abortSession p s) := by
  unfold applyDisable
  rw [h, ho]

theorem other_eq_of_ne {p q : Port} (h : p ≠ q) : p.other = q := by
  cases p <;> cases q <;> simp_all [Port.other]

/-- Settles O47. -/
theorem segmentSettles : Obligations.SegmentSettles := by
  intro g c s hp o closes releases counted out kept granted joined joins
  have hreleased : ∀ r, releases r → counted = s.segCounters.get g ∧
      exec c s = .next (takeAllDeferred g o.deferred (settleRelease g r (s.stopFormed g (s.segCounters.get g)))) := by
    rintro r ⟨rfl, ha, ho⟩
    exact ⟨if_neg fun h => by simp at h, exec_releaseStop hp ha ho r⟩
  have hformed : closes ∨ releases .formed → o.deferred = [] →
      exec c s = .next (settleSegment g (s.stopFormed g counted)) := by
    rintro (⟨rfl, hs, ht⟩ | hr) hd
    · have hcounted : counted = if (s.seg.get g).pulses ≠ 0 then
            { s.segCounters.get g with recoveries := satInc (s.segCounters.get g).recoveries }
          else s.segCounters.get g := by
        simp only [counted, true_and]
        rfl
      rw [hcounted]
      exact exec_closes hp hs ht hd
    · obtain ⟨hcounted, he⟩ := hreleased _ hr
      rw [he, hd, hcounted]
      rfl
  have hgranted : ∀ p rest, o.waiters.erase p = rest → granted p rest (s.regranted g counted p) := fun p rest hl =>
    ⟨regranted_seg hl, by simp [State.regranted], by simp [State.regranted], rfl, settled_jobsReported s g counted,
      regranted_kept⟩
  have htaken : releases .formed → o.disablePending = false →
      exec c s = .next (takeAllDeferred g o.deferred (grantHead g (s.settled g counted))) := fun hr hdp => by
    obtain ⟨hcounted, he⟩ := hreleased _ hr
    rw [he, ← hcounted, ← settleSegment_idle s g counted hdp]
    rfl
  have hfailed : ∀ r, r = .sclLow ∨ r = .sdaLow → releases r →
      exec c s = .next (takeAllDeferred g o.deferred (s.stopFailed g)) := fun r hf hr => by
    rw [(hreleased r hr).2, settleRelease_failed hf]
  refine ⟨fun hstop hd hdp hw => ?out, fun hstop hd hdp => ⟨fun hn => ?idle, fun p rest hl => ?grant⟩,
    fun hr hd hdp => ⟨fun hn => ?disableIdle, fun p rest hl hhold => ?disableGranted⟩,
    fun r hf hr => ⟨fun hd => ?failed, fun hd => ?failedDisable⟩,
    fun p hd hseg ho hn hhold => ⟨fun hr hdp => ⟨fun hl => ?requestIdle, fun q rest hl => ?requestBehind⟩,
      fun r hf hr => ?requestClosing⟩,
    fun r l d hr hd => ?append, fun r hc hact => ?nothing⟩
  case out =>
    rw [hformed hstop hd, settleSegment_disabled hdp]
    have hwait : ((s.stopFormed g counted).seg.get g).waiters = o.waiters := by simp [State.stopFormed, o]
    obtain ⟨t, ht, heq, hflags, hrefused, hjobs⟩ := enterDisabled_eq g (s.stopFormed g counted) (by rw [hwait]; exact hw)
    rw [hwait] at heq hflags hrefused
    have hqueue : t.queue = s.refusedIn o.waiters s.queue :=
      (congrArg State.queue heq :).trans (refusedIn_congr _ _ _ _ fun q _ => ⟨rfl, rfl⟩)
    refine ⟨t, congrArg _ ht, ?_, ?_, fun q => ?_, hrefused, hqueue, fun hn => ?_, ?_⟩
    · rw [(congrArg State.seg heq :)]
      simp [State.stopFormed, out, o]
      exact hd
    · rw [(congrArg State.segCounters heq :)]
      simp [State.stopFormed]
    · rw [hjobs q]
      exact jobAfter_congr g _ _ q s _ rfl rfl fun h hne => by simp [State.stopFormed, hne]
    · obtain ⟨hf, ha⟩ := hflags hn
      exact ⟨by rw [hqueue, hn]; rfl, hf, ha⟩
    · refine ⟨keepsOtherSegs_sets ((congrArg State.seg heq :).trans (PerSeg.set_set _ _ _ _))
          (congrArg State.segCounters heq :), ⟨(congrArg State.bank heq :), (congrArg State.accounts heq :),
          (congrArg State.refill heq :), (congrArg State.portCounters heq :)⟩, (congrArg State.bc heq :),
          (congrArg State.settings heq :), (congrArg State.parser heq :), (congrArg State.holder heq :),
          (congrArg State.idle heq :)⟩
  case idle =>
    rw [hformed hstop hd, settleSegment_idle s g counted hdp, grantHead_nil s g counted hn]
    refine ⟨_, rfl, ?_, ?_, settled_jobsReported s g counted, settled_kept, ⟨rfl, rfl, rfl⟩, rfl, rfl⟩
    · simp [State.settled, idled, ← hd, o]
    · simp [State.settled]
  case grant =>
    rw [hformed hstop hd, settleSegment_idle s g counted hdp, grantHead_cons s g counted hl]
    exact ⟨_, rfl, hgranted p rest (by rw [hl, List.erase_cons_head]), ⟨rfl, rfl, rfl⟩, regranted_port⟩
  case disableIdle =>
    obtain ⟨t, ht, heq, hflags, hrefused, hjobs⟩ := enterDisabled_eq g (s.settled g counted) (by
      rw [show ((s.settled g counted).seg.get g).waiters = [] by simpa [State.settled, idled] using hn]
      exact ⟨List.nodup_nil, nofun⟩)
    have hdisabled : exec c s = .next t := by
      rw [htaken hr hdp, hd, grantHead_nil s g counted hn, ← ht]
      exact congrArg _ (applyDisable_idle (by simp [State.settled, idled]))
    have hempty : ((s.settled g counted).seg.get g).waiters = [] := by simpa [State.settled, idled] using hn
    have hport : ∀ q, KeepsPort q s t := fun q => hrefused.2 q (by rw [hempty]; nofun)
    have hqueue : t.queue = s.queue := (congrArg State.queue heq :).trans (by rw [hempty]; rfl)
    obtain ⟨hf, ha⟩ := hflags hempty
    have hkept : SegmentKept g s t := settled_kept.trans
      ⟨keepsOtherSegs_set (congrArg State.seg heq :) (congrArg State.segCounters heq :),
        ⟨(congrArg State.bank heq :), (congrArg State.accounts heq :), (congrArg State.refill heq :),
          (congrArg State.portCounters heq :)⟩,
        (congrArg State.bc heq :), (congrArg State.settings heq :), (congrArg State.parser heq :),
        (congrArg State.holder heq :), (congrArg State.idle heq :)⟩
    refine ⟨t, hdisabled, ?_, ?_, fun q hq => ?_, fun q hq hwait => ?_, hkept, ⟨hqueue, hf, ha⟩,
      PerPort.ext_get fun q => (hport q).1, PerPort.ext_get fun q => (hport q).2⟩
    · rw [(congrArg State.seg heq :)]
      simp [State.settled, idled, out, o]
    · rw [(congrArg State.segCounters heq :)]
      simp [State.settled]
    · have hjob := hjobs q
      rw [jobAfter_settled_disable hq] at hjob
      exact Prod.mk.inj hjob
    · rw [hjobs q]
      exact jobAfter_settled_other hq hwait
  case disableGranted =>
    obtain ⟨w, hw, heq, hseg, haborted⟩ := abortSession_eq p (s.regranted g counted p)
    have hstate : ((s.regranted g counted p).session.get p).state = .connect := by simp [State.regranted]
    have howned : ((s.regranted g counted p).session.get p).owned = some g := by simp [State.regranted]
    have hgrant := regranted_seg (s := s) (g := g) (k := counted) (p := p) (rest := rest)
      (by rw [show (s.seg.get g).waiters = _ from hl, List.erase_cons_head])
    have hexec : exec c s = .next (pendDisable g w) := by
      rw [htaken hr hdp, hd, grantHead_cons s g counted hl, ← hw]
      exact congrArg _ (applyDisable_owned (by rw [hgrant]) (by rw [hgrant]))
    obtain ⟨-, -, hdecision, hdiscards, -, -⟩ := haborted
    have hkept : SegmentKept g (s.regranted g counted p) (pendDisable g w) := by
      refine ⟨fun l hl => ⟨?_, by rw [show (pendDisable g w).segCounters = w.segCounters from rfl,
          (congrArg State.segCounters heq :)]⟩,
        ⟨(congrArg State.bank heq :), (congrArg State.accounts heq :), (congrArg State.refill heq :),
          (congrArg State.portCounters heq :)⟩, (congrArg State.bc heq :), (congrArg State.settings heq :),
          (congrArg State.parser heq :), (congrArg State.holder heq :), (congrArg State.idle heq :)⟩
      have hother : w.seg.get l = (s.regranted g counted p).seg.get l := by
        rw [hseg l, howned, if_neg (by simpa using Ne.symm hl)]
        exact if_neg fun h => by rw [hstate] at h; exact absurd h.1 (by decide)
      simpa [pendDisable, State.updSeg, hl] using hother
    refine ⟨_, hexec, ?_, ?_, ?_, ?_, ?_, ?_, regranted_kept.trans hkept, ?_⟩
    · have hg : w.seg.get g = closing s.settings g ((s.regranted g counted p).seg.get g) := by
        rw [hseg g, if_pos howned]
        unfold State.withdrawn
        rw [if_neg fun h => by rw [hstate] at h; exact absurd h.1 (by decide)]
        rfl
      rw [hgrant] at hg
      simp only [pendDisable, State.updSeg, PerSeg.get_set, if_true, hg]
      rfl
    · show w.segCounters.get g = _
      rw [(congrArg State.segCounters heq :)]
      simp [State.regranted]
    · exact (hdiscards (.inr (.inl hstate))).2 hhold
    · exact hdecision (.inr hstate)
    · show w.queue = _
      rw [(congrArg State.queue heq :)]
      have hpart : (s.regranted g counted p).part p = s.part p := by simp [State.part, State.regranted]
      have hjudged : (s.regranted g counted p).judged p = s.judged p := by
        simp [State.judged, State.judgedId, State.regranted, State.settled]
      unfold State.abortRecord State.recordedIn State.violationOf State.relaying
      rw [hpart, hjudged, hstate]
      cases (s.part p).recorded <;> simp <;> rfl
    · intro q
      show (w.slot.get q, w.job.get q) = _
      rw [(congrArg State.slot heq :), (congrArg State.job heq :)]
      exact settled_jobsReported s g counted q
    · refine (regranted_port (s := s) (g := g) (k := counted) (p := p)).trans (t := s.regranted g counted p)
        (u := pendDisable g w) ⟨?_, ?_⟩
      · show w.session.get p.other = _
        rw [(congrArg State.session heq :)]
        simp
      · show w.upi.get p.other = _
        rw [(congrArg State.upi heq :)]
        simp
  case failed =>
    rw [hfailed r hf hr, hd]
    refine congrArg Host.Outcome.next ?_
    have hclosing : (closing s.settings g o).deferred = [] := hd
    ext1
    case seg =>
      show s.seg.set g { closing s.settings g o with deferred := [] } = s.seg.set g (closing s.settings g o)
      rw [← hclosing]
    all_goals rfl
  case failedDisable =>
    rw [hfailed r hf hr, hd]
    refine congrArg Host.Outcome.next ?_
    have hpend : applyDisable g (s.stopFailed g) = pendDisable g (s.stopFailed g) :=
      applyDisable_closing (by simp [State.stopFailed, closing])
    show applyDisable g (s.stopFailed g) = _
    rw [hpend]
    ext1
    case seg => simp [pendDisable, State.stopFailed, o]
    all_goals rfl
  case requestIdle =>
    rw [htaken hr hdp, hd, grantHead_nil s g counted hl]
    exact ⟨_, congrArg _ requestSegment_settled, hgranted p [] (by rw [hl, List.erase_nil]), ⟨rfl, rfl, rfl⟩,
      regranted_port⟩
  case requestBehind =>
    have hmem : q ∈ (s.seg.get g).waiters := by rw [show (s.seg.get g).waiters = _ from hl]; exact List.mem_cons_self
    have hne : p ≠ q := fun h => hn (h ▸ hmem)
    have hport : KeepsPort p s (s.regranted g counted q) := by simp [KeepsPort, State.regranted, State.settled, hne]
    have hg := regranted_seg (s := s) (g := g) (k := counted) (p := q) (rest := rest)
      (by rw [show (s.seg.get g).waiters = _ from hl, List.erase_cons_head])
    have hjoined := requestSegment_joins (p := p) (g := g) (s := s.regranted g counted q)
      (by rw [hg]; exact .inl ⟨rfl, rfl⟩) (by rw [hport.part]; exact hseg)
      (by
        rw [hg]
        refine fun hm => hn ?_
        rw [show o.waiters = _ from hl]
        exact List.mem_cons_of_mem _ (by simpa [Segment.seekers] using hm))
      (by rw [hport.1]; exact ho) (by rw [hport.2]; exact hhold)
    have hexec : exec c s = .next (requestSegment p g (s.regranted g counted q)) := by
      rw [htaken hr hdp, hd, grantHead_cons s g counted hl]
      rfl
    have hq : p.other = q := other_eq_of_ne hne
    have hrest := hjoined.rest
    have hother := hjoined.other
    rw [hq] at hother
    refine ⟨_, hexec, ⟨?_, ?_, ?_, ?_, fun l => ?_, regranted_kept.trans hjoined.kept⟩, fun hw => ?_, fun hw => ?_⟩
    · rw [hjoined.seg, PerSeg.get_set, if_pos rfl, hg]
      rfl
    · rw [(congrArg State.segCounters hrest :)]
      simp [State.regranted]
    · rw [hother.1]
      simp [State.regranted]
    · rw [hother.2]
      rfl
    · rw [(congrArg State.slot hrest :), (congrArg State.job hrest :)]
      exact settled_jobsReported s g counted l
    · obtain ⟨hsession, hupi, hrecords⟩ := hjoined.waits hw
      rw [hsession, hport.1]
      exact ⟨rfl, hupi, hrecords⟩
    · obtain ⟨hdiscarding, hdecision, hqueue⟩ := hjoined.refused hw
      refine ⟨hdiscarding, hdecision, hqueue.trans ?_⟩
      unfold State.recordedIn State.violationOf
      rw [hport.part, hport.judged rfl rfl]
      rfl
  case requestClosing =>
    have hclosing : (s.stopFailed g).seg.get g = { closing s.settings g o with deferred := [] } := by
      simp [State.stopFailed, o]
    have hjoined := requestSegment_joins (p := p) (g := g) (s := s.stopFailed g)
      (by rw [hclosing]; exact .inr rfl) hseg
      (by
        rw [hclosing]
        exact fun hm => hn (by simpa [Segment.seekers, closing] using hm))
      ho hhold
    have hexec : exec c s = .next (requestSegment p g (s.stopFailed g)) := by
      rw [hfailed r hf hr, hd]
      rfl
    have hrest := hjoined.rest
    refine ⟨_, hexec, ?_, ⟨hjoined.waits, hjoined.refused⟩, (congrArg State.segCounters hrest :),
      (congrArg State.slot hrest :), (congrArg State.job hrest :), ?_, hjoined.other⟩
    · rw [hjoined.seg, PerSeg.get_set, if_pos rfl, hclosing]
      rfl
    · have hstop : SegmentKept g s (s.stopFailed g) :=
        ⟨keepsOtherSegs_set rfl rfl, ⟨rfl, rfl, rfl, rfl⟩, rfl, rfl, rfl, rfl, rfl⟩
      exact hstop.trans hjoined.kept
  case append =>
    obtain ⟨rfl, ha, ho⟩ := hr
    have hless := exec_releaseStop (s := { s with seg := s.seg.set g { o with deferred := l } }) (g := g) hp
      (by simpa using ha) (by simpa using ho) r
    refine ⟨_, hless, ?_⟩
    rw [exec_releaseStop hp ha ho r, show (s.seg.get g).deferred = l ++ [d] from hd]
    have hsame : ({ s with seg := s.seg.set g { o with deferred := l } } : State).stopFormed g
        (s.segCounters.get g) = s.stopFormed g (s.segCounters.get g) := by
      ext1
      case seg => simp [State.stopFormed, o]
      all_goals rfl
    dsimp only
    rw [hsame, PerSeg.get_set, if_pos rfl]
    unfold takeAllDeferred
    rw [List.foldl_append]
    rfl
  case nothing =>
    obtain rfl := hc
    refine congrArg Host.Outcome.next ((inService_eq _ hp).trans (if_neg ?_))
    rintro ⟨ha, ho⟩
    exact hact.elim (fun h => h ha) fun h => h ho

end Sys2Proof.Machine
end

section
/-!
PROOFS. The holder's segment commands, and the disable of a segment (R49, R109 to R111, R168, R176).
-/

namespace Sys2Proof

theorem Port.ne_other (p : Port) : p ≠ p.other := (Port.other_ne p).symm

theorem Port.eq_or_other (p q : Port) : q = p ∨ q = p.other := by
  cases p <;> cases q <;> decide

namespace Machine

/-! ## The frames of the segment commands -/

/-- A state whose idle timer a frame of the port started again, if the port is the holder (R163, R167). -/
def State.touched (s : State) (p : Port) : State := { s with idle := s.idleAfter p }

theorem finishCommand_touched {s : State} {p : Port} (hs : s.serves p) (t : Status) (l : List Byte) :
    finishCommand p t l (s.touched p) = s.answered p t l := finishCommand_answered hs t l

theorem startLong_touched (s : State) (p : Port) (j : LongCommand) : startLong p j (s.touched p) = s.underWay p j := rfl

theorem segOfByte_none {x : Byte} (h : 4 ≤ x.toNat) : segOfByte x = none := by
  cases he : segOfByte x with
  | none => rfl
  | some g =>
    rw [← seg_code he] at h
    cases g <;> exact absurd h (by decide)

theorem onSegment_code (p : Port) (g : SegId) (take : SegId → State → State) (s : State) :
    onSegment p (SegId.code g) take s = take g s := by
  unfold onSegment
  rw [segOfByte_code]

theorem onSegment_none (p : Port) {x : Byte} (h : 4 ≤ x.toNat) (take : SegId → State → State) (s : State) :
    onSegment p x take s = finishCommand p .range [] s := by
  unfold onSegment
  rw [segOfByte_none h]

section

variable {s : State} {p : Port} (hs : s.serves p) (hh : s.holder = some p)
include hs hh

theorem exec_segmentDisable (x : Byte) :
    exec (.segmentDisable p x) s = .next (onSegment p x (disableSegment p) (s.touched p)) :=
  congrArg Host.Outcome.next (viaFrame_runs hs (by simp [MgmtCommand.lengths]) (.inr hh))

theorem exec_segmentEnable (x : Byte) :
    exec (.segmentEnable p x) s = .next (onSegment p x (enableSegment p) (s.touched p)) :=
  congrArg Host.Outcome.next (viaFrame_runs hs (by simp [MgmtCommand.lengths]) (.inr hh))

theorem exec_segmentRelease (x : Byte) :
    exec (.segmentRelease p x) s = .next (onSegment p x (reopenSegment p) (s.touched p)) :=
  congrArg Host.Outcome.next (viaFrame_runs hs (by simp [MgmtCommand.lengths]) (.inr hh))

theorem exec_segmentCommand_range {x : Byte} (hx : 4 ≤ x.toNat) {c : Instr}
    (hc : c = .segmentDisable p x ∨ c = .segmentEnable p x ∨ c = .segmentRelease p x) :
    exec c s = .next (s.answered p .range []) := by
  rw [← finishCommand_touched hs]
  rcases hc with rfl | rfl | rfl
  · rw [exec_segmentDisable hs hh, onSegment_none p hx]
  · rw [exec_segmentEnable hs hh, onSegment_none p hx]
  · rw [exec_segmentRelease hs hh, onSegment_none p hx]

end

/-! ## The disable of a segment -/

section

variable {s : State} {p : Port} {g : SegId}

theorem startLong_startClose (j : LongCommand) :
    startLong p j (startClose g (s.touched p)) =
      { s.underWay p j with seg := s.seg.set g (closing s.settings g (s.seg.get g)) } := rfl

/-- A segment without waiters disabled at once (R109), a command of the other port that waits on it completed (R168). -/
theorem finishCommand_enterDisabled (hj : s.job.get p = none) (hw : (s.seg.get g).waiters = []) :
    finishCommand p .ok [] (enterDisabled g (s.touched p)) =
      { s.answered p .ok [] with
        seg := s.seg.set g
          { s.seg.get g with
            state := .disabled, owner := none, reason := .none, disablePending := false, hold := none, act := none,
            ninthOwed := false },
        slot := (s.slot.set p ⟨.ok, []⟩).set p.other (s.jobAfter g .disabled .none p.other).1,
        job := s.job.set p.other (s.jobAfter g .disabled .none p.other).2 } := by
  obtain ⟨t, ht, heq, hflags, hrefused, hjobs⟩ := enterDisabled_eq g (s.touched p) (by
    rw [show ((s.touched p).seg.get g).waiters = [] from hw]
    exact ⟨List.nodup_nil, nofun⟩)
  have hempty : ((s.touched p).seg.get g).waiters = [] := hw
  have hport : ∀ q, KeepsPort q s t := fun q => hrefused.2 q (by rw [hempty]; nofun)
  obtain ⟨hf, ha⟩ := hflags hempty
  have hother := hjobs p.other
  rw [jobAfter_congr g .disabled .none p.other s (s.touched p) rfl rfl fun _ _ => rfl] at hother
  have hslot := congrArg Prod.fst hother
  have hjob := congrArg Prod.snd hother
  have hupi : t.upi = s.upi := PerPort.ext_get fun q => (hport q).2
  have hsession : t.session = s.session := PerPort.ext_get fun q => (hport q).1
  rw [hempty, hf, ha, hupi, hsession] at heq
  rw [ht, heq]
  ext1
  case seg =>
    show s.seg.set g _ = s.seg.set g _
    rw [← hw]
    rfl
  case slot =>
    refine PerPort.ext_get fun q => ?_
    rcases Port.eq_or_other p q with rfl | rfl
    · simp [finishCommand, State.setSlot, State.setJob, Port.ne_other]
    · simpa [finishCommand, State.setSlot, State.setJob] using hslot
  case job =>
    refine PerPort.ext_get fun q => ?_
    rcases Port.eq_or_other p q with rfl | rfl
    · simp [finishCommand, State.setSlot, State.setJob, hj, Port.ne_other]
    · simpa [finishCommand, State.setSlot, State.setJob] using hjob
  all_goals rfl

/-- A segment with an owner disabled: its session is aborted, its close procedure starts, the disable pending (R109). -/
theorem disableSegment_owned {q : Port} (hstate : (s.seg.get g).state = .owned) (ho : (s.seg.get g).owner = some q)
    (hq : (s.session.get q).owned = some g) (hwait : (s.session.get q).state ≠ .grantWait) :
    ∃ t, disableSegment p g (s.touched p) = t ∧
      t.seg.get g = { closing s.settings g (s.seg.get g) with disablePending := true } ∧ KeepsOtherSegs g s t ∧
      t.segCounters = s.segCounters ∧ t.slot = (s.underWay p (.segmentDisable g)).slot ∧
      t.job = (s.underWay p (.segmentDisable g)).job ∧ t.idle = s.idleAfter p ∧ Aborted q s t ∧
      KeepsPort q.other s t ∧ t.queue = s.abortRecord q s.queue ∧ KeepsPolicy s t ∧ t.bc = s.bc ∧
      t.parser = s.parser ∧ t.holder = s.holder ∧ t.settings = s.settings := by
  obtain ⟨w, hw, heq, hseg, haborted⟩ := abortSession_eq q (s.touched p)
  have hdisable : disableSegment p g (s.touched p) = startLong p (.segmentDisable g) (pendDisable g w) := by
    unfold disableSegment
    rw [show ((s.touched p).seg.get g).state = .owned from hstate, applyDisable_owned (s := s.touched p) hstate ho, hw]
  have hwseg : ∀ l, w.seg.get l = if l = g then closing s.settings g (s.seg.get g) else s.seg.get l := fun l => by
    have hkept : ∀ c, (s.touched p).withdrawn q l c = c := fun c => if_neg fun h => hwait h.1
    rw [hseg l, hkept]
    by_cases hl : l = g
    · rw [if_pos hl, hl]
      exact if_pos hq
    · rw [if_neg hl]
      exact if_neg fun h => hl (Option.some.inj (h.symm.trans hq))
  have hother : ∀ l, l ≠ g → (pendDisable g w).seg.get l = s.seg.get l := fun l hl => by
    have hw := hwseg l
    rw [if_neg hl] at hw
    simpa [pendDisable, State.updSeg, hl] using hw
  refine ⟨_, hdisable, ?_, fun l hl => ⟨hother l hl, by
    rw [show (startLong p (.segmentDisable g) (pendDisable g w)).segCounters = w.segCounters from rfl,
      (congrArg State.segCounters heq :)]
    rfl⟩, (congrArg State.segCounters heq :), ?_, ?_, (congrArg State.idle heq :), ?_, ⟨?_, ?_⟩,
    (congrArg State.queue heq :), ⟨(congrArg State.bank heq :), (congrArg State.accounts heq :),
      (congrArg State.refill heq :), (congrArg State.portCounters heq :)⟩, (congrArg State.bc heq :),
    (congrArg State.parser heq :), (congrArg State.holder heq :), (congrArg State.settings heq :)⟩
  · have hw := hwseg g
    rw [if_pos rfl] at hw
    show (w.seg.set g { w.seg.get g with disablePending := true }).get g = _
    rw [PerSeg.get_set, if_pos rfl, hw]
  · show w.slot.set p _ = _
    rw [(congrArg State.slot heq :)]
    rfl
  · show w.job.set p _ = _
    rw [(congrArg State.job heq :)]
    rfl
  · exact aborted_congr q (s.touched p) w s _ rfl rfl rfl rfl rfl rfl haborted
  · show w.session.get q.other = _
    rw [(congrArg State.session heq :), PerPort.get_set, if_neg (Port.other_ne q)]
    rfl
  · show w.upi.get q.other = _
    rw [(congrArg State.upi heq :), PerPort.get_set, if_neg (Port.other_ne q)]
    rfl

end

end Machine

end Sys2Proof
end

section
/-!
PROOFS. The holder's segment commands: the statement (R49, R109 to R111, R168, R176).
-/

namespace Sys2Proof.Machine

/-- Settles O57. -/
theorem segmentCommandsAct : Obligations.SegmentCommandsAct := by
  intro p s hs hh
  have ⟨_, _, hj, _⟩ := hs
  refine ⟨fun x hx c hc => exec_segmentCommand_range hs hh hx hc, fun g => ?_⟩
  have henable : exec (.segmentEnable p (SegId.code g)) s = .next (enableSegment p g (s.touched p)) := by
    rw [exec_segmentEnable hs hh, onSegment_code]
  have hrelease : exec (.segmentRelease p (SegId.code g)) s = .next (reopenSegment p g (s.touched p)) := by
    rw [exec_segmentRelease hs hh, onSegment_code]
  have hdisable : exec (.segmentDisable p (SegId.code g)) s = .next (disableSegment p g (s.touched p)) := by
    rw [exec_segmentDisable hs hh, onSegment_code]
  have hstate : ∀ x, (s.seg.get g).state = x → ((s.touched p).seg.get g).state = x := fun _ h => h
  intro x c off
  refine ⟨fun h => ?enable, fun h => ?enableState, fun h => ?release, fun h => ?releaseState, fun h => ?disabled,
    fun h hw => ?settled, fun h => ?closing, fun h ho => ?deferred, fun q h ho hq hwait => ?owned⟩
  case enable => exact henable.trans (congrArg _ ((if_pos h).trans (startLong_startClose _)))
  case enableState => exact henable.trans (congrArg _ ((if_neg h).trans (finishCommand_touched hs _ _)))
  case release => exact hrelease.trans (congrArg _ ((if_pos h).trans (startLong_startClose _)))
  case releaseState => exact hrelease.trans (congrArg _ ((if_neg h).trans (finishCommand_touched hs _ _)))
  case disabled =>
    rw [hdisable, ← finishCommand_touched hs]
    unfold disableSegment applyDisable
    rw [hstate _ h]
  case settled =>
    have hdone : disableSegment p g (s.touched p) = finishCommand p .ok [] (enterDisabled g (s.touched p)) := by
      unfold disableSegment applyDisable
      rcases h with h | h <;> rw [hstate _ h]
    rw [hdisable, hdone, finishCommand_enterDisabled hj hw]
  case closing =>
    rw [hdisable]
    unfold disableSegment
    rw [hstate _ h, applyDisable_closing (s := s.touched p) h]
    rfl
  case deferred =>
    rw [hdisable]
    unfold disableSegment applyDisable
    rw [hstate _ h, show ((s.touched p).seg.get g).owner = none from ho]
    rfl
  case owned =>
    rw [hdisable]
    obtain ⟨t, ht, hrest⟩ := disableSegment_owned (p := p) h ho hq hwait
    exact ⟨t, congrArg _ ht, hrest⟩

end Sys2Proof.Machine
end

section
/-!
PROOFS. ABORT_ALL reaches both sessions in either order: the statement (R49, R99, R101, R112, R151, R168, R177).
-/

namespace Sys2Proof.Machine

/-! ## A withdrawal and a close procedure that start in one event -/

theorem withdrawn_closing (s : State) (p : Port) (r : Settings) (g : SegId) (c : Segment) :
    s.withdrawn p g (closing r g c) = closing r g (s.withdrawn p g c) := by
  unfold State.withdrawn
  split <;> rfl

theorem withdrawn_comm (s : State) (p q : Port) (g : SegId) (c : Segment) :
    s.withdrawn p g (s.withdrawn q g c) = s.withdrawn q g (s.withdrawn p g c) := by
  unfold State.withdrawn
  split
  · split
    · rw [List.erase_comm, List.erase_comm (Deferred.request q)]
    · rfl
  · rfl

theorem withdrawn_congr {s t : State} {p : Port} (h : t.session.get p = s.session.get p) (g : SegId) (c : Segment) :
    t.withdrawn p g c = s.withdrawn p g c := by
  unfold State.withdrawn State.part
  rw [h]

/-- A segment that a session of one of two ports gives up, those that wait for it withdrawn (R99, R112). -/
def State.withdrawnClosed (s : State) (p q : Port) (g : SegId) : Segment :=
  if (s.session.get p).owned = some g ∨ (s.session.get q).owned = some g then
    closing s.settings g (s.withdrawn q g (s.withdrawn p g (s.seg.get g)))
  else s.withdrawn q g (s.withdrawn p g (s.seg.get g))

theorem withdrawnClosed_comm (s : State) (p q : Port) (g : SegId) :
    s.withdrawnClosed p q g = s.withdrawnClosed q p g := by
  unfold State.withdrawnClosed
  rw [withdrawn_comm]
  exact if_congr or_comm rfl rfl

/-! ## Both sessions -/

/-- An abort reaches the sessions of both ports, that of the first one first (R49, R112, R151). -/
structure AbortsBoth (p q : Port) (s t : State) : Prop where
  aborted : ∀ l, Aborted l s t
  seg : ∀ g, t.seg.get g = s.withdrawnClosed p q g
  queue : t.queue = s.abortRecord q (s.abortRecord p s.queue)
  rest : t =
    { s with
      choice := t.choice, upi := t.upi, session := t.session, seg := t.seg, flags := t.flags, alert := t.alert,
      queue := t.queue }

theorem abortSession_other (p : Port) (s : State) :
    AbortsBoth p p.other s (abortSession p.other (abortSession p s)) := by
  obtain ⟨v, hv, heq, hseg, haborted⟩ := abortSession_eq p s
  obtain ⟨w, hw, heq', hseg', haborted'⟩ := abortSession_eq p.other v
  have hsession : v.session.get p.other = s.session.get p.other := by
    rw [(congrArg State.session heq :), PerPort.get_set, if_neg (Port.other_ne p)]
  have hupi : v.upi.get p.other = s.upi.get p.other := by
    rw [(congrArg State.upi heq :), PerPort.get_set, if_neg (Port.other_ne p)]
  have hsettings : v.settings = s.settings := (congrArg State.settings heq :)
  have hsession' : w.session.get p = v.session.get p := by
    rw [(congrArg State.session heq' :), PerPort.get_set, if_neg (Port.ne_other p)]
  have hupi' : w.upi.get p = v.upi.get p := by
    rw [(congrArg State.upi heq' :), PerPort.get_set, if_neg (Port.ne_other p)]
  have hsettings' : w.settings = v.settings := (congrArg State.settings heq' :)
  rw [hv, hw]
  constructor
  case aborted =>
    intro l
    rcases Port.eq_or_other p l with rfl | rfl
    · exact aborted_congr l s v s w rfl rfl rfl hsession' hupi' hsettings' haborted
    · exact aborted_congr p.other v w s w hsession.symm hupi.symm hsettings.symm rfl rfl rfl haborted'
  case seg =>
    intro g
    rw [hseg' g, hseg g, hsession, hsettings, withdrawn_congr hsession]
    unfold State.withdrawnClosed
    by_cases hp : (s.session.get p).owned = some g <;> by_cases hq : (s.session.get p.other).owned = some g <;>
      simp only [hp, hq, if_true, if_false, or_true, true_or, or_self, withdrawn_closing]
    rfl
  case queue =>
    rw [(congrArg State.queue heq' :), (congrArg State.queue heq :)]
    exact abortRecord_congr p.other _ s v hsession (congrArg State.bank heq :) (congrArg State.bc heq :)
  case rest =>
    rw [heq', heq]

theorem AbortsBoth.ofChoice {p q : Port} {s t : State} {n : Nat} (h : AbortsBoth p q { s with choice := n } t) :
    AbortsBoth p q s t :=
  ⟨fun l => aborted_congr l { s with choice := n } t s t rfl rfl rfl rfl rfl rfl (h.aborted l), h.seg, h.queue, h.rest⟩

/-- The order of the two aborts is a free value (R151; log entry 10). -/
theorem abortSessions_aborts (s : State) : ∃ p : Port, AbortsBoth p p.other s (abortSessions s) := by
  unfold abortSessions
  split
  · split
    · exact ⟨.up0, (abortSession_other .up0 _).ofChoice⟩
    · exact ⟨.up1, (abortSession_other .up1 _).ofChoice⟩
  · exact ⟨.up0, abortSession_other .up0 s⟩

theorem mem_ownedSegments {s : State} {g : SegId} :
    g ∈ ownedSegments s ↔ (s.session.get .up0).owned = some g ∨ (s.session.get .up1).owned = some g := by
  simp [ownedSegments]

theorem withdrawnClosed_owned (s : State) (g : SegId) :
    s.withdrawnClosed .up0 .up1 g =
      if g ∈ ownedSegments s then closing s.settings g (s.withdrawn .up1 g (s.withdrawn .up0 g (s.seg.get g)))
      else s.withdrawn .up1 g (s.withdrawn .up0 g (s.seg.get g)) := by
  unfold State.withdrawnClosed
  exact if_congr mem_ownedSegments.symm rfl rfl

theorem relayingParts_eq (s : State) :
    relayingParts s = (if s.relaying .up0 = true then 1 else 0) + (if s.relaying .up1 = true then 1 else 0) := by
  unfold relayingParts
  cases s.relaying .up0 <;> cases s.relaying .up1 <;> rfl

theorem AbortsBoth.seg_owned {p : Port} {s t : State} (h : AbortsBoth p p.other s t) (g : SegId) :
    t.seg.get g =
      if g ∈ ownedSegments s then closing s.settings g (s.withdrawn .up1 g (s.withdrawn .up0 g (s.seg.get g)))
      else s.withdrawn .up1 g (s.withdrawn .up0 g (s.seg.get g)) := by
  rw [h.seg g, ← withdrawnClosed_owned]
  cases p with
  | up0 => rfl
  | up1 => exact withdrawnClosed_comm s .up1 .up0 g

theorem AbortsBoth.queue_either {p : Port} {s t : State} (h : AbortsBoth p p.other s t) :
    t.queue = s.abortRecord .up1 (s.abortRecord .up0 s.queue) ∨
      t.queue = s.abortRecord .up0 (s.abortRecord .up1 s.queue) := by
  cases p with
  | up0 => exact .inl h.queue
  | up1 => exact .inr h.queue

theorem exec_abortAll {s : State} {p : Port} (hs : s.serves p) (hh : s.holder = some p) :
    exec (.abortAll p) s = .next (abortAllParts p (s.touched p)) :=
  congrArg Host.Outcome.next (viaFrame_runs hs (by simp [MgmtCommand.lengths]) (.inr hh))

/-- A state whose slot and long command of a port an ABORT_ALL sets. -/
def State.reported (s : State) (p : Port) (x : Slot) (j : Option LongCommand) : State :=
  { s with slot := s.slot.set p x, job := s.job.set p j }

theorem abortAllParts_reported (p : Port) (s : State) :
    abortAllParts p s =
      (abortSessions s).reported p
        (if ownedSegments s = [] then ⟨.ok, abortPayload (relayingParts s) (abortSessions s)⟩ else ⟨.inProgress, []⟩)
        (if ownedSegments s = [] then none else some (.abortAll (relayingParts s) (ownedSegments s))) := by
  unfold abortAllParts
  by_cases h : ownedSegments s = []
  · simp only [if_pos h]
    rfl
  · simp only [if_neg h]
    rfl

/-- Settles O58. -/
theorem abortAllActs : Obligations.AbortAllActs := by
  intro p s hs hh owned n
  have ⟨_, _, hj, _⟩ := hs
  obtain ⟨q, h⟩ := abortSessions_aborts (s.touched p)
  have hn : relayingParts (s.touched p) = n := relayingParts_eq s
  have howned : ownedSegments (s.touched p) = owned := rfl
  have hrest := h.rest
  have hjob : (abortSessions (s.touched p)).job = s.job := (congrArg State.job hrest :)
  have hslot : (abortSessions (s.touched p)).slot = s.slot := (congrArg State.slot hrest :)
  refine ⟨_, (exec_abortAll hs hh).trans (congrArg _ (abortAllParts_reported p _)),
    fun l => aborted_congr l (s.touched p) _ s _ rfl rfl rfl rfl rfl rfl (h.aborted l), h.seg_owned, h.queue_either,
    fun hnone => ⟨?_, ?_⟩, fun hsome => ⟨?_, ?_⟩, (congrArg State.idle hrest :), (congrArg State.segCounters hrest :),
    ⟨(congrArg State.bank hrest :), (congrArg State.accounts hrest :), (congrArg State.refill hrest :),
      (congrArg State.portCounters hrest :)⟩, (congrArg State.bc hrest :), (congrArg State.parser hrest :),
    (congrArg State.holder hrest :), (congrArg State.settings hrest :)⟩
  · show (abortSessions (s.touched p)).job.set p _ = s.job
    rw [howned, if_pos hnone, hjob, ← hj, PerPort.set_get]
  · show (abortSessions (s.touched p)).slot.set p _ = _
    rw [howned, if_pos hnone, hslot, hn]
    rfl
  · show (abortSessions (s.touched p)).job.set p _ = _
    rw [howned, if_neg hsome, hjob, hn]
  · show (abortSessions (s.touched p)).slot.set p _ = _
    rw [howned, if_neg hsome, hslot]

end Sys2Proof.Machine
end

section
/-!
PROOFS. The commands of a frame leave the bank every session captured (R128, R163).
-/

namespace Sys2Proof.Machine

/-- Every session holds the bank it held. -/
def KeepsCaptures (s t : State) : Prop := ∀ q, (t.session.get q).bank = (s.session.get q).bank

theorem KeepsCaptures.trans {s t u : State} (h : KeepsCaptures s t) (h' : KeepsCaptures t u) : KeepsCaptures s u :=
  fun q => (h' q).trans (h q)

theorem keepsCaptures_of_eq {s t : State} (h : t.session = s.session) : KeepsCaptures s t := fun q => by rw [h]

/-- An event of one session keeps the captures, if it keeps that of this session. -/
theorem keepsCaptures_of_set {s t : State} {p : Port} (hset : t.session = s.session.set p (t.session.get p))
    (hbank : (t.session.get p).bank = (s.session.get p).bank) : KeepsCaptures s t := fun q => by
  by_cases hq : q = p
  · rw [hq, hbank]
  · rw [hset, PerPort.get_set, if_neg hq]

/-! ## The commands that reach sessions -/

theorem keepsCaptures_abortSession (p : Port) (s : State) : KeepsCaptures s (abortSession p s) := by
  obtain ⟨w, hw, heq, -, -, hbank, -⟩ := abortSession_eq p s
  rw [hw]
  exact keepsCaptures_of_set (congrArg State.session heq) hbank

theorem keepsCaptures_refuseAddress (p : Port) (r : Reason) (x : Option Half) (s : State) :
    KeepsCaptures s (refuseAddress p r x s) := by
  obtain ⟨f, a, h⟩ := refuseAddress_eq p r x s
  rw [h]
  exact keepsCaptures_of_set (p := p) (by simp) (by simp)

theorem keepsCaptures_refuseAll (l : List Port) (s : State) :
    KeepsCaptures s (l.foldl (fun s p => refuseAddress p .segmentUnavailable none s) s) := by
  induction l generalizing s with
  | nil => exact keepsCaptures_of_eq rfl
  | cons p l ih => exact (keepsCaptures_refuseAddress p _ _ s).trans (ih _)

theorem keepsCaptures_enterDisabled (g : SegId) (s : State) : KeepsCaptures s (enterDisabled g s) :=
  have hrefused : KeepsCaptures s (refuseWaiters g s) :=
    keepsCaptures_refuseAll (s.seg.get g).waiters (s.updSeg g fun c => { c with waiters := [] })
  hrefused.trans (keepsCaptures_of_eq (completeJobs_session g _ _ _))

theorem keepsCaptures_applyDisable (g : SegId) (s : State) : KeepsCaptures s (applyDisable g s) := by
  unfold applyDisable
  cases (s.seg.get g).state with
  | idle => exact keepsCaptures_enterDisabled g s
  | quarantined => exact keepsCaptures_enterDisabled g s
  | disabled => exact keepsCaptures_of_eq rfl
  | closing => exact keepsCaptures_of_eq rfl
  | owned =>
    cases (s.seg.get g).owner with
    | some q => exact keepsCaptures_abortSession q s
    | none => exact keepsCaptures_of_eq rfl

theorem keepsCaptures_disableSegment (p : Port) (g : SegId) (s : State) : KeepsCaptures s (disableSegment p g s) := by
  have h := keepsCaptures_applyDisable g s
  unfold disableSegment
  cases (s.seg.get g).state <;> exact h

theorem keepsCaptures_onSegment {p : Port} {x : Byte} {take : SegId → State → State} {s : State}
    (h : ∀ g, KeepsCaptures s (take g s)) : KeepsCaptures s (onSegment p x take s) := by
  unfold onSegment
  cases segOfByte x with
  | some g => exact h g
  | none => exact keepsCaptures_of_eq rfl

theorem keepsCaptures_abortAllParts (p : Port) (s : State) : KeepsCaptures s (abortAllParts p s) := by
  obtain ⟨q, h⟩ := abortSessions_aborts s
  rw [abortAllParts_reported]
  exact fun l => (h.aborted l).2.1

/-! ## The commands that reach none -/

section

variable (p : Port) (s : State)

theorem keepsCaptures_openSession : KeepsCaptures s (openSession p s) := by
  unfold openSession
  cases s.holder with
  | none => exact keepsCaptures_of_eq rfl
  | some q =>
    dsimp only
    split <;> exact keepsCaptures_of_eq rfl

theorem keepsCaptures_closeSession : KeepsCaptures s (closeSession p s) := by
  unfold closeSession
  split <;> exact keepsCaptures_of_eq rfl

theorem keepsCaptures_readStatus (x : Byte) : KeepsCaptures s (readStatus p x s) := by
  unfold readStatus
  cases yesNoOfByte x with
  | none => exact keepsCaptures_of_eq rfl
  | some c => cases c <;> exact keepsCaptures_of_eq rfl

theorem keepsCaptures_answerRead (l : Option (List Byte)) : KeepsCaptures s (answerRead p l s) := by
  cases l <;> exact keepsCaptures_of_eq rfl

theorem keepsCaptures_readBank (x : Byte) (item : Bank → Option (List Byte)) :
    KeepsCaptures s (readBank p x item s) := by
  unfold readBank
  dsimp only
  repeat' split
  all_goals exact keepsCaptures_of_eq rfl

theorem keepsCaptures_editShadow (e : Option (Bank → Bank)) : KeepsCaptures s (editShadow p e s) := by
  cases e <;> exact keepsCaptures_of_eq rfl

theorem keepsCaptures_writeSettings (l : List Byte) : KeepsCaptures s (writeSettings p l s) := by
  unfold writeSettings
  cases settingsOfBytes l with
  | none => exact keepsCaptures_of_eq rfl
  | some r => exact keepsCaptures_of_eq (evalAlerts_session _)

theorem keepsCaptures_enableSegment (g : SegId) : KeepsCaptures s (enableSegment p g s) := by
  unfold enableSegment
  split <;> exact keepsCaptures_of_eq rfl

theorem keepsCaptures_reopenSegment (g : SegId) : KeepsCaptures s (reopenSegment p g s) := by
  unfold reopenSegment
  split <;> exact keepsCaptures_of_eq rfl

end

theorem keepsCaptures_staged {p : Port} {take : State → State} {s : State} (h : KeepsCaptures s (take s)) :
    KeepsCaptures s (staged p take s) := by
  unfold staged
  split
  · exact keepsCaptures_of_eq rfl
  · split
    · exact keepsCaptures_of_eq rfl
    · exact h

/-! ## Every command -/

theorem keepsCaptures_perform (p : Port) (c : MgmtCommand) (args : List Byte) (s : State) :
    KeepsCaptures s (perform p c args s) := by
  cases c with
  | sessionOpen => exact keepsCaptures_openSession p s
  | sessionClose => exact keepsCaptures_closeSession p s
  | statusRead => exact keepsCaptures_readStatus p s _
  | identRead => exact keepsCaptures_of_eq rfl
  | settingsRead => exact keepsCaptures_of_eq rfl
  | violationRead => exact keepsCaptures_of_eq rfl
  | headerRead => exact keepsCaptures_readBank p s _ _
  | entryRead => exact keepsCaptures_readBank p s _ _
  | windowRead => exact keepsCaptures_readBank p s _ _
  | counterRead => exact keepsCaptures_answerRead p s _
  | segmentStatus => exact keepsCaptures_answerRead p s _
  | headerWrite => exact keepsCaptures_staged (keepsCaptures_editShadow p s _)
  | entryWrite => exact keepsCaptures_staged (keepsCaptures_editShadow p s _)
  | entryClear => exact keepsCaptures_staged (keepsCaptures_editShadow p s _)
  | windowWrite => exact keepsCaptures_staged (keepsCaptures_editShadow p s _)
  | shadowReload => exact keepsCaptures_staged (keepsCaptures_of_eq rfl)
  | commit => exact keepsCaptures_staged (keepsCaptures_of_eq rfl)
  | lockdown => exact keepsCaptures_staged (keepsCaptures_of_eq rfl)
  | violationAck => exact keepsCaptures_of_eq (evalAlerts_session _)
  | countersClear => exact keepsCaptures_of_eq rfl
  | settingsWrite => exact keepsCaptures_writeSettings p s args
  | segmentDisable => exact keepsCaptures_onSegment fun g => keepsCaptures_disableSegment p g s
  | segmentEnable => exact keepsCaptures_onSegment fun g => keepsCaptures_enableSegment p s g
  | segmentRelease => exact keepsCaptures_onSegment fun g => keepsCaptures_reopenSegment p s g
  | abortAll => exact keepsCaptures_abortAllParts p s

theorem keepsCaptures_touchIdle (p : Port) (s : State) : KeepsCaptures s (touchIdle p s) := by
  unfold touchIdle
  split <;> exact keepsCaptures_of_eq rfl

theorem keepsCaptures_runCommand (p : Port) (c : MgmtCommand) (args : List Byte) (s : State) :
    KeepsCaptures s (runCommand p c args s) := by
  unfold runCommand
  dsimp only
  split
  · refine (keepsCaptures_touchIdle p s).trans ?_
    split
    · exact keepsCaptures_of_eq rfl
    · exact keepsCaptures_perform p c args _
  · exact keepsCaptures_of_eq rfl

theorem keepsCaptures_runFrame (p : Port) (code : Byte) (args : List Byte) (s : State) :
    KeepsCaptures s (runFrame p code args s) := by
  unfold runFrame
  cases commandOfByte code with
  | none => exact keepsCaptures_of_eq rfl
  | some c => exact keepsCaptures_runCommand p c args s

theorem keepsCaptures_endFrame (p : Port) (s : State) : KeepsCaptures s (endFrame p s) := by
  unfold endFrame frameOutcome
  cases (s.parser.get p).state with
  | complete =>
    dsimp only
    split
    · exact keepsCaptures_runFrame p _ _ _
    · exact keepsCaptures_of_eq rfl
  | awaitCommand => exact keepsCaptures_of_eq rfl
  | refused => exact keepsCaptures_of_eq rfl
  | awaitLength => exact keepsCaptures_of_eq rfl
  | awaitArguments => exact keepsCaptures_of_eq rfl
  | awaitCrc => exact keepsCaptures_of_eq rfl
  | overlength => exact keepsCaptures_of_eq rfl

end Sys2Proof.Machine
end

section
/-!
PROOFS. The end of a write frame with its part: the statement (R43, R46, R48, R161, R163).
-/

namespace Sys2Proof.Machine

/-! ## The outcome of a frame -/

section

variable {s : State} {p : Port}

theorem endFrame_eq (p : Port) (s : State) : endFrame p s = frameOutcome p (s.parser.get p) (s.parserFresh p) := rfl

/-- A port whose parser is fresh and that has no command in progress takes a frame (R159, R160). -/
theorem takesFrame_parserFresh (hm : s.straps.mgmten.get p = true) (hj : s.job.get p = none) :
    (s.parserFresh p).takesFrame p = true := by
  simp [State.takesFrame, State.parserFresh, hm, hj]

theorem viaFrame_parserFresh (hm : s.straps.mgmten.get p = true) (hj : s.job.get p = none) (k : MgmtCommand)
    (args : List Byte) : viaFrame p k args (s.parserFresh p) = runCommand p k args (s.parserFresh p) :=
  if_pos (takesFrame_parserFresh hm hj)

theorem runFrame_code (k : MgmtCommand) (args : List Byte) : runFrame p k.code args s = runCommand p k args s := by
  unfold runFrame
  rw [commandOfByte_code]

theorem runFrame_unknown {code : Byte} (h : commandOfByte code = none) (args : List Byte) :
    runFrame p code args s = finishCommand p .badCommand [] s := by
  unfold runFrame
  rw [h]

theorem frameEnds_endFrame (hp : s.phase = .inService) (hm : s.straps.mgmten.get p = true)
    (hjob : (s.parser.get p).state ≠ .awaitCommand → (s.parser.get p).state ≠ .refused → s.job.get p = none) :
    FrameEnds p s (endFrame p s) := by
  have hcomplete : (s.parser.get p).state = .complete → s.job.get p = none ∧
      endFrame p s =
        if (s.parser.get p).received = (s.parser.get p).running then
          runFrame p (s.parser.get p).command (s.parser.get p).args (s.parserFresh p)
        else finishCommand p .badCrc [] (countCrcError p (s.parserFresh p)) := fun h => by
    refine ⟨hjob (by rw [h]; decide) (by rw [h]; decide), ?_⟩
    rw [endFrame_eq]
    unfold frameOutcome
    rw [h]
  unfold FrameEnds
  intro r u
  refine ⟨fun h => ?nothing, fun h => ?short, fun hc hne => ?badCrc, fun hc he => ?executes⟩
  case nothing =>
    rw [endFrame_eq]
    unfold frameOutcome
    rcases h with h | h <;> rw [show (s.parser.get p).state = _ from h]
  case short =>
    have hj : s.job.get p = none := hjob
      (fun e => by rcases h with h | h | h | h <;> exact absurd (h.symm.trans e) (by decide))
      (fun e => by rcases h with h | h | h | h <;> exact absurd (h.symm.trans e) (by decide))
    have hbad : endFrame p s = finishCommand p .badLength [] u := by
      rw [endFrame_eq]
      unfold frameOutcome
      rcases h with h | h | h | h <;> rw [show (s.parser.get p).state = _ from h]
    exact hbad.trans (finishCommand_idle hj)
  case badCrc =>
    obtain ⟨hj, hend⟩ := hcomplete hc
    exact hend.trans ((if_neg hne).trans (finishCommand_idle hj))
  case executes =>
    obtain ⟨hj, hend⟩ := hcomplete hc
    rw [hend, if_pos he]
    refine ⟨fun hn => ?unknown, fun hk hno => ?badLength, fun c hc => ?command⟩
    case unknown => exact (runFrame_unknown hn _).trans (finishCommand_idle hj)
    case badLength =>
      obtain ⟨k, hk⟩ := Option.isSome_iff_exists.mp hk
      have hcode : k.code = r.command := code_of_commandOfByte hk
      have hlen : r.args.length ∉ k.lengths := fun hl => by
        obtain ⟨c, hc⟩ := exists_frameOf p k r.args hl
        exact hno c (hcode ▸ hc)
      show runFrame p r.command r.args u = _
      rw [← hcode, runFrame_code]
      exact (if_neg hlen).trans (finishCommand_idle hj)
    case command =>
      obtain ⟨k, hcode, hexec, -, -⟩ := exec_frameOf hc
      have hrun : runFrame p r.command r.args u = runCommand p k r.args u := by rw [← hcode, runFrame_code]
      rw [hexec]
      refine congrArg Host.Outcome.next ?_
      calc inService (viaFrame p k r.args) u
        _ = viaFrame p k r.args u := inService_eq _ hp
        _ = runCommand p k r.args u := viaFrame_parserFresh hm hj k r.args
        _ = runFrame p r.command r.args u := hrun.symm

end

/-- Settles O59. -/
theorem frameEndActs : Obligations.FrameEndActs := by
  intro p s hp hstate hdir ho hf hm hjob ends
  have hends : ∀ v, KeepsCaptures s v → ends v (v.closed p) := fun v hv => by
    refine ⟨rfl, fun k => ?_, ?_, rfl, rfl, rfl, rfl⟩
    · rw [← hv p]
      exact get_bankReleased_holders _ _ k
    · rw [← hv p]
      rfl
  refine ⟨⟨endFrame p s, frameEnds_endFrame hp hm hjob, ?restart⟩,
    ⟨endFrame p s, (endFrame p s).closed p, frameEnds_endFrame hp hm hjob, ?stop, hends _ (keepsCaptures_endFrame p s)⟩,
    fun ha => ⟨endFrame p (countAbandoned p s), (endFrame p (countAbandoned p s)).closed p,
      frameEnds_endFrame hp hm hjob, ?abandon, hends _ (keepsCaptures_endFrame p (countAbandoned p s))⟩⟩
  case restart =>
    refine congrArg Host.Outcome.next ((inService_eq _ hp).trans ((takeRestart_of_free hf).trans ?_))
    unfold restartPart endPartFrame
    rw [if_pos ⟨hstate, hdir⟩]
    rfl
  case stop =>
    refine congrArg Host.Outcome.next ((inService_eq _ hp).trans ((if_pos hf).trans ?_))
    unfold stopSession endPartFrame
    rw [closeRecord_releaseBank, releaseSegment_of_none ho, if_pos ⟨hstate, hdir⟩]
  case abandon =>
    refine congrArg Host.Outcome.next ((inService_eq _ hp).trans ((if_pos ⟨hf, ha⟩).trans ?_))
    have hrecord : recordAbandoned p s = s := by
      unfold recordAbandoned
      rw [hstate]
    unfold abandonSession endPartFrame
    rw [closeRecord_releaseBank, giveUpSegment_of_none ho, hrecord]
    exact congrArg (fun t => State.closed t p) (if_pos ⟨hstate, hdir⟩)

end Sys2Proof.Machine
end

section
/-!
PROOFS. Addresses refused before and after a lookup that finds no entry (R54 to R56, R60).
-/

namespace Sys2Proof.Machine

section

variable {s : State} {p : Port} {d : Direction} {a : Addr} {b : Option BankId} {n : PerBank Nat}

/-- A read of 0x00, or a write to it that is not forwarded, is refused GENERAL_CALL (R54, R55). -/
theorem judgeAddress_generalCall_refused (hb : b.getD s.bc.active = s.judgingId p)
    (h : d = .read ∨ (s.bank.get (s.judgingId p)).header.generalCallAction = .block) :
    judgeAddress p (s.under p (s.judgement b n (newPart .seven d 0))) =
      (s.under p (s.judgement b n (newPart .seven d 0)), some (.generalCall, none)) := by
  have hbank : (s.judgement b n (newPart .seven d 0)).bank.getD s.bc.active = s.judgingId p := hb
  have hblocked : ¬(d = .write ∧ (s.bank.get (s.judgingId p)).header.generalCallAction = .forward) := by
    rintro ⟨hwrite, hforward⟩
    rcases h with hread | hblock
    · exact absurd (hwrite.symm.trans hread) nofun
    · exact absurd (hforward.symm.trans hblock) nofun
  unfold judgeAddress
  simp only [State.under_part, State.under_judged, hbank]
  rw [if_pos ⟨rfl, rfl⟩]
  exact if_neg hblocked

theorem reservedAddress_iff :
    reservedAddress a = true ↔ (1 ≤ a.toNat ∧ a.toNat ≤ 7) ∨ (0x7C ≤ a.toNat ∧ a.toNat ≤ 0x7F) := by
  simp [reservedAddress]

theorem reservedAddress_ne_zero (h : reservedAddress a = true) : a ≠ 0 := by
  rintro rfl
  exact absurd h (by decide)

/-- A reserved 7-bit address is refused NO_ENTRY without a lookup, in either direction (R56). -/
theorem judgeAddress_reserved (h : reservedAddress a = true) :
    judgeAddress p (s.under p (s.judgement b n (newPart .seven d a))) =
      (s.under p (s.judgement b n (newPart .seven d a)), some (.noEntry, none)) := by
  unfold judgeAddress
  simp only [State.under_part]
  rw [if_neg fun hzero => reservedAddress_ne_zero h hzero.2]
  exact if_pos ⟨rfl, h⟩

end

/-- Settles O24: the judgement refuses the address in each of the three ways, and `settleAddress_refuses` answers it. -/
theorem addressRefusedWithoutEntry : Obligations.AddressRefusedWithoutEntry := by
  intro p b s kind d a r hc k hr
  obtain ⟨m, n, hm, he⟩ := exec_completes hc
  have hjudge : judgeAddress p (s.under p (s.judgement m n (newPart kind d a))) =
      (s.under p (s.judgement m n (newPart kind d a)), some (r, none)) := by
    rcases hr with ⟨rfl, rfl, hcall, rfl⟩ | ⟨rfl, hreserved, rfl⟩ | ⟨hlooked, hnone, hdeny, rfl⟩
    · exact judgeAddress_generalCall_refused hm hcall
    · exact judgeAddress_reserved (reservedAddress_iff.mpr hreserved)
    · exact judgeAddress_deny hm hlooked hnone hdeny
  have hrefused := settleAddress_refuses hjudge
  refine ⟨_, he, hrefused.discarding, hrefused.decision, hrefused.recorded, hrefused.released, hrefused.segCounters, ?_,
    ⟨hrefused.bank, hrefused.accounts, hrefused.refill, hrefused.portCounters⟩, hrefused.management, hrefused.port⟩
  rw [hrefused.queue]
  exact judgeQueue_eq hm rfl rfl rfl rfl _ _ _

end Sys2Proof.Machine
end

section
/-!
PROOFS. The steps of the close procedure short of its end, and the ways a segment enters QUARANTINED (R99, R102 to R104, R106,
R108 to R112, R154, R168).
-/

namespace Sys2Proof.Machine

/-- A state whose segment has been given a number of recovery pulses (R103). -/
def State.pulsed (s : State) (g : SegId) (n : Nat) : State := s.updSeg g fun c => { c with pulses := n }

section

variable (s : State) (g : SegId) (n : Nat)

@[simp] theorem State.pulsed_seg : (s.pulsed g n).seg = s.seg.set g { s.seg.get g with pulses := n } := rfl

theorem State.pulsed_self : s.pulsed g (s.seg.get g).pulses = s := by
  ext1
  case seg => exact PerSeg.set_get _ _
  all_goals rfl

theorem closeStep_pulsed (t : CloseStep) :
    closeStep g t (s.pulsed g n) =
      { s with
        seg := s.seg.set g
          { s.seg.get g with pulses := n, step := t, hold := some (s.seg.get g).holdLimit } } := by
  ext1
  case seg => simp [closeStep]
  all_goals rfl

end

/-! ## The commands of a close procedure, and foreign conditions -/

section

variable {s : State} {g : SegId} (hp : s.phase = .inService)
include hp

theorem exec_closeSclReleased (hs : (s.seg.get g).state = .closing) (ht : (s.seg.get g).step = .one) (l : Level) :
    exec (.closeSclReleased g l) s = .next (afterScl g l s) :=
  congrArg Host.Outcome.next ((inService_eq _ hp).trans (if_pos ⟨hs, ht⟩))

theorem exec_recoveryPulse (hs : (s.seg.get g).state = .closing) (ht : (s.seg.get g).step = .two) (l : Level) :
    exec (.recoveryPulse g l) s = .next (afterPulse g l s) :=
  congrArg Host.Outcome.next ((inService_eq _ hp).trans (if_pos ⟨hs, ht⟩))

theorem exec_closeStopEnd (hs : (s.seg.get g).state = .closing) (ht : (s.seg.get g).step = .three) (r : CloseStopResult) :
    exec (.closeStopEnd g r) s = .next (afterCloseStop g r s) :=
  congrArg Host.Outcome.next ((inService_eq _ hp).trans (if_pos ⟨hs, ht⟩))

theorem exec_closeSclReleased_ignored (h : (s.seg.get g).state ≠ .closing ∨ (s.seg.get g).step ≠ .one) (l : Level) :
    exec (.closeSclReleased g l) s = .next s :=
  congrArg Host.Outcome.next ((inService_eq _ hp).trans (if_neg (not_and_or.mpr h)))

theorem exec_recoveryPulse_ignored (h : (s.seg.get g).state ≠ .closing ∨ (s.seg.get g).step ≠ .two) (l : Level) :
    exec (.recoveryPulse g l) s = .next s :=
  congrArg Host.Outcome.next ((inService_eq _ hp).trans (if_neg (not_and_or.mpr h)))

theorem exec_closeStopEnd_ignored (h : (s.seg.get g).state ≠ .closing ∨ (s.seg.get g).step ≠ .three)
    (r : CloseStopResult) : exec (.closeStopEnd g r) s = .next s :=
  congrArg Host.Outcome.next ((inService_eq _ hp).trans (if_neg (not_and_or.mpr h)))

theorem exec_holdTimerExpiry (hs : (s.seg.get g).state = .closing) (hh : (s.seg.get g).hold.isSome) :
    exec (.holdTimerExpiry g) s = .next (enterQuarantine g .clockHeld s) :=
  congrArg Host.Outcome.next ((inService_eq _ hp).trans (if_pos ⟨hs, hh⟩))

theorem exec_foreignCondition {k : ForeignKind} (h : isForeign (s.seg.get g) k = true) :
    exec (.foreignCondition g k) s = .next (enterQuarantine g .foreign s) :=
  congrArg Host.Outcome.next ((inService_eq _ hp).trans (if_pos h))

end

/-! ## A recovery pulse and the STOP of the third step -/

section

variable (s : State) (g : SegId)

theorem afterPulse_high :
    afterPulse g .high s = closeStep g .three (s.pulsed g ((s.seg.get g).pulses + 1)) := rfl

theorem afterPulse_low :
    afterPulse g .low s =
      if (s.seg.get g).pulses + 1 < 9 then closeStep g .two (s.pulsed g ((s.seg.get g).pulses + 1))
      else enterQuarantine g .dataHeld (s.pulsed g ((s.seg.get g).pulses + 1)) := by
  show (if ((s.pulsed g ((s.seg.get g).pulses + 1)).seg.get g).pulses < 9 then _ else _) = _
  rw [show ((s.pulsed g ((s.seg.get g).pulses + 1)).seg.get g).pulses = (s.seg.get g).pulses + 1 by simp]
  rfl

end

/-- Settles O45. -/
theorem closeProcedureSteps : Obligations.CloseProcedureSteps := by
  intro g s hp c goes
  have hpulsed : ∀ t, closeStep g t (s.pulsed g (c.pulses + 1)) = goes { c with pulses := c.pulses + 1, step := t } :=
    closeStep_pulsed s g (c.pulses + 1)
  refine ⟨fun hs ht => ⟨exec_closeSclReleased hp hs ht .high, exec_closeSclReleased hp hs ht .low⟩,
    fun hs ht => ⟨?high, fun hn => ?low⟩, fun hs ht hn => ?stop,
    fun l r => ⟨fun h => exec_closeSclReleased_ignored hp h l, fun h => exec_recoveryPulse_ignored hp h l,
      fun h => exec_closeStopEnd_ignored hp h r⟩⟩
  case high => rw [exec_recoveryPulse hp hs ht, afterPulse_high, hpulsed]
  case low => rw [exec_recoveryPulse hp hs ht, afterPulse_low, if_pos hn, hpulsed]
  case stop => exact (exec_closeStopEnd hp hs ht .sdaLow).trans (congrArg Host.Outcome.next (if_pos hn))

/-! ## Quarantine -/

/-- Foreign on IDLE are a START and a fall of SCL; on CLOSING a START, and a STOP, except in a recovery pulse of the second
step (R103, R106; log entry 9). -/
theorem isForeign_iff (o : Segment) (k : ForeignKind) :
    isForeign o k = true ↔
      (o.state = .idle ∧ (k = .start ∨ k = .clockFall)) ∨
        (o.state = .closing ∧ (k = .start ∨ k = .stop ∨ (k = .stopInPulse ∧ o.step ≠ .two))) := by
  unfold isForeign
  cases o.state <;> cases k <;> simp

/-- A segment quarantined after a number of pulses, or with a disable pending taken on to DISABLED; its waiters refused, the
commands that wait on it told (R99, R108, R109, R154, R168). -/
structure Quarantined (g : SegId) (r : QuarantineReason) (n : Nat) (s t : State) : Prop where
  seg : t.seg = s.seg.set g
    { s.seg.get g with
      pulses := n, state := if (s.seg.get g).disablePending then .disabled else .quarantined, owner := none, waiters := [],
      reason := if (s.seg.get g).disablePending then .none else r, disablePending := false, hold := none, act := none,
      ninthOwed := false }
  segCounters : t.segCounters = s.segCounters.set g
    { s.segCounters.get g with quarantines := satInc (s.segCounters.get g).quarantines }
  shows : t.showsEvent
  flags : (s.seg.get g).waiters = [] → ∀ p, t.flags.get p = { s.flags.get p with segmentEvent := true }
  refused : Refused (s.seg.get g).waiters s t
  jobs : JobsReported g (if (s.seg.get g).disablePending then .disabled else .quarantined)
    (if (s.seg.get g).disablePending then .none else r) s t
  others : t =
    { s with
      seg := t.seg, segCounters := t.segCounters, queue := s.refusedIn (s.seg.get g).waiters s.queue, flags := t.flags,
      alert := t.alert, upi := t.upi, session := t.session, slot := t.slot, job := t.job }

theorem enterQuarantine_pulsed (g : SegId) (r : QuarantineReason) (s : State) (n : Nat)
    (hw : s.waitersHeld (s.seg.get g).waiters) : Quarantined g r n s (enterQuarantine g r (s.pulsed g n)) := by
  have hseg : (s.pulsed g n).seg.get g = { s.seg.get g with pulses := n } := by simp
  obtain ⟨t, ht, heq, hshows, hflags, hrefused, hjobs⟩ := enterQuarantine_eq g r (s.pulsed g n) (by rw [hseg]; exact hw)
  rw [hseg] at heq hflags hrefused hjobs
  rw [ht]
  constructor
  case seg => exact (congrArg State.seg heq).trans (PerSeg.set_set _ _ _ _)
  case segCounters => exact (congrArg State.segCounters heq :)
  case shows => exact hshows
  case flags => exact hflags
  case refused => exact hrefused
  case jobs =>
    exact fun p => (hjobs p).trans (jobAfter_congr g _ _ p s _ rfl rfl fun h hne => by simp [hne])
  case others =>
    have hqueue : t.queue = s.refusedIn (s.seg.get g).waiters s.queue :=
      (congrArg State.queue heq).trans (refusedIn_congr _ _ _ s fun _ _ => ⟨rfl, rfl⟩)
    rw [← hqueue, heq]
    rfl

/-- Settles O46: each cause runs `enterQuarantine`, the ninth pulse with its pulse counted before. -/
theorem segmentQuarantined : Obligations.SegmentQuarantined := by
  intro g c r s hp o hcause hw x why
  have hunpulsed (h : exec c s = .next (enterQuarantine g r s)) :
      ∃ n, exec c s = .next (enterQuarantine g r (s.pulsed g n)) :=
    ⟨o.pulses, by rw [State.pulsed_self]; exact h⟩
  obtain ⟨n, hexec⟩ : ∃ n, exec c s = .next (enterQuarantine g r (s.pulsed g n)) := by
    rcases hcause with ⟨rfl, hs, hh, rfl⟩ | ⟨rfl, hs, ht, hn, rfl⟩ | ⟨rfl, hs, ht, hn, rfl⟩ | ⟨rfl, hs, hc⟩ | ⟨rfl, hs, hc⟩
    case inl => exact hunpulsed (exec_holdTimerExpiry hp hs hh)
    case inr.inl => exact ⟨o.pulses + 1, by rw [exec_recoveryPulse hp hs ht, afterPulse_low, if_neg (not_lt.mpr hn)]⟩
    case inr.inr.inl =>
      have hstop : afterCloseStop g .sdaLow s = enterQuarantine g .dataHeld s := if_neg (not_lt.mpr hn)
      exact hunpulsed ((exec_closeStopEnd hp hs ht .sdaLow).trans (congrArg Host.Outcome.next hstop))
    case inr.inr.inr.inl =>
      rcases hc with rfl | rfl
      · exact hunpulsed (exec_foreignCondition hp ((isForeign_iff o .start).mpr (by simp [hs])))
      · exact hunpulsed (exec_foreignCondition hp ((isForeign_iff o .clockFall).mpr (by simp [hs])))
    case inr.inr.inr.inr =>
      rcases hc with rfl | rfl | ⟨rfl, ht⟩
      · exact hunpulsed (exec_foreignCondition hp ((isForeign_iff o .start).mpr (by simp [hs])))
      · exact hunpulsed (exec_foreignCondition hp ((isForeign_iff o .stop).mpr (by simp [hs])))
      · exact hunpulsed (exec_foreignCondition hp ((isForeign_iff o .stopInPulse).mpr (by simp [hs, ht])))
  have hdone := enterQuarantine_pulsed g r s n hw
  rw [hexec]
  generalize enterQuarantine g r (s.pulsed g n) = t at hdone
  have hothers := hdone.others
  have hcounters : t.segCounters.get g =
      { s.segCounters.get g with quarantines := satInc (s.segCounters.get g).quarantines } := by
    rw [hdone.segCounters]
    simp
  refine ⟨t, rfl, ?_, ?_, ?_, ?_, ?_, ?_, ?_, hcounters, keepsOtherSegs_sets hdone.seg hdone.segCounters, hdone.shows,
    hdone.flags, hdone.refused, (congrArg State.queue hothers :), hdone.jobs, (congrArg State.bank hothers :),
    (congrArg State.bc hothers :), (congrArg State.accounts hothers :), (congrArg State.refill hothers :),
    (congrArg State.portCounters hothers :), (congrArg State.settings hothers :), (congrArg State.parser hothers :),
    (congrArg State.holder hothers :), (congrArg State.idle hothers :)⟩
  all_goals rw [hdone.seg, PerSeg.get_set, if_pos rfl]

end Sys2Proof.Machine
end

section
/-!
PROOFS. Credit of the active bank over every step, and the timers, completion events and commands that write buckets, counters,
queue and settings (R116 to R119, R121, R124, R132 to R134, R139, R153, R154, R157, R167, R172, R175, R180).
-/

namespace Sys2Proof.Machine

/-! ## Credit over every step (R116 to R119) -/

/-- A device that enters service with full buckets for its active bank has each bucket where a limit is, and within it
(R116, R117). -/
theorem enterService_creditSafe (straps : Straps) (settings : Settings) (bank : PerBank Bank) (bc : BankController)
    (accounts : PerBank (Vector EntryAccount 128)) (s : State)
    (hactive : accounts.get bc.active = freshAccounts (bank.get bc.active)) :
    CreditSafe (enterService straps settings bank bc accounts s) := by
  rw [creditSafe_iff]
  intro i
  show BucketSafe (tableGet (bank.get bc.active).entries i) (tableGet (accounts.get bc.active) i).bucket
  rw [hactive, freshAccounts_account]
  exact freshBucket_safe _

theorem enterWithContents_creditSafe (straps : Straps) (settings : Settings) (s : State) :
    CreditSafe (enterWithContents straps settings s) :=
  enterService_creditSafe _ _ _ _ _ s rfl

theorem enterWithLocked_creditSafe (straps : Straps) (s : State) : CreditSafe (enterWithLocked straps s) :=
  enterService_creditSafe _ _ _ _ _ s (by simp)

/-- A command of a reset leaves buckets, entries and the choice of the active bank, or ends a reset with full buckets. -/
theorem reset_creditSafe {c : Instr} {s t : State} (hc : resetCommand c = true) (h : exec c s = .next t)
    (hs : CreditSafe s) : CreditSafe t := by
  rcases reset_cases c s t h hc with ⟨_, -, -, rfl | rfl⟩ | ⟨-, rfl⟩ | ⟨_, rfl⟩ | ⟨_, -, -, rfl⟩ | ⟨_, -, -, rfl⟩ |
    ⟨_, _, -, rfl⟩ | ⟨_, -, rfl⟩ | rfl
  case inr.inr.inr.inl => exact enterWithLocked_creditSafe _ s
  case inr.inr.inr.inr.inl => exact enterWithContents_creditSafe _ _ s
  case inr.inr.inr.inr.inr.inl => exact enterWithContents_creditSafe _ _ s
  all_goals exact hs

/-- Settles O15: `CreditSafe` is kept by every effect and by every command of a reset. -/
theorem creditStaysWithinLimit : Obligations.CreditStaysWithinLimit :=
  step_keeps (fun _ _ => Iff.rfl) (fun _ _ _ h => h.creditSafe) fun _ _ _ hc h => reset_creditSafe hc h

/-! ## The refill tick and the idle timeout (R118, R134, R167) -/

theorem exec_refillTick {s : State} (hp : s.phase = .inService) :
    exec .refillTick s = .next (if s.refill.isSome then refillBuckets s else s) :=
  congrArg Host.Outcome.next (inService_eq _ hp)

theorem exec_idleTimerExpiry {s : State} (hp : s.phase = .inService) :
    exec .idleTimerExpiry s = .next (if s.idle.isSome then expireSession s else s) :=
  congrArg Host.Outcome.next (inService_eq _ hp)

theorem refillBuckets_active (s : State) (i : EntryIdx) :
    tableGet ((refillBuckets s).accounts.get s.bc.active) i =
      refilled (tableGet (s.bank.get s.bc.active).entries i) (tableGet (s.accounts.get s.bc.active) i) := by
  simp [refillBuckets]

theorem refillBuckets_shadow (s : State) : (refillBuckets s).accounts.get s.shadowId = s.accounts.get s.shadowId := by
  simp [refillBuckets, State.shadowId]

theorem refilled_bucket {e : Entry} {a : EntryAccount} {n : Nat} {l : Byte} (hn : a.bucket = some n)
    (hl : e.creditLimit = some l) :
    refilled e a = { a with bucket := some (min l.toNat (n + e.creditRefill.toNat)) } := by
  simp [refilled, hn, hl]

theorem refilled_without {e : Entry} {a : EntryAccount} (h : a.bucket = none ∨ e.creditLimit = none) :
    refilled e a = a := by
  rcases h with h | h
  · simp [refilled, h]
  · cases hb : a.bucket <;> simp [refilled, hb, h]

/-- The idle timeout ends the management session, and an EDITABLE, dirty shadow begins its reload (R134, R167). -/
theorem expireSession_eq (s : State) :
    expireSession s =
      { s with
        holder := none, idle := none,
        bc :=
          { s.bc with
            shadow := if s.bc.shadow = .editable ∧ s.bc.dirty = true then .reloading else s.bc.shadow } } := by
  show (if s.bc.shadow = .editable ∧ s.bc.dirty = true then beginReload ((s.setHolder none).setIdle none)
    else (s.setHolder none).setIdle none) = _
  split <;> rfl

/-- Settles O44: each timer runs its event, and `refilled_bucket` and `refilled_without` say what a tick leaves of an account. -/
theorem refillAndIdleTimers : Obligations.RefillAndIdleTimers := by
  intro s hp
  refine ⟨fun hr => ?_, fun hr => ?_, fun hi => ?_, fun hi => ?_⟩
  · rw [exec_refillTick hp, hr]
    rfl
  · refine ⟨refillBuckets s, by rw [exec_refillTick hp, if_pos hr], rfl, refillBuckets_shadow s, fun i => ?_⟩
    rw [refillBuckets_active]
    exact ⟨fun _ _ => refilled_bucket, refilled_without⟩
  · rw [exec_idleTimerExpiry hp, hi]
    rfl
  · rw [exec_idleTimerExpiry hp, if_pos hi, expireSession_eq]

/-! ## The completion events of the Bank Controller (R117, R118, R121, R132, R136, R139, R154) -/

theorem exec_validationCompletion {s : State} (hp : s.phase = .inService) :
    exec .validationCompletion s = .next (completeValidation s) :=
  congrArg Host.Outcome.next (inService_eq _ hp)

theorem exec_reloadCompletion {s : State} (hp : s.phase = .inService) :
    exec .reloadCompletion s = .next (completeReload s) :=
  congrArg Host.Outcome.next (inService_eq _ hp)

theorem completeValidation_idle {s : State} (hj : s.bc.commit = none) : completeValidation s = s := by
  unfold completeValidation
  rw [hj]

/-- The validation of a commit that passes every check (R139). -/
theorem completeValidation_passes {j : CommitJob} {s : State} (hj : s.bc.commit = some j)
    (hf : commitFailure s.managementAddress j.expected (s.bank.get s.shadowId) = none) :
    completeValidation s = swapBanks j s := by
  unfold completeValidation
  rw [hj]
  dsimp only
  rw [hf]

/-- COMMIT_DONE is latched, and the line of its port evaluated (R139, R154, R157). -/
theorem latchCommitDone_eq (p : Port) (s : State) :
    latchCommitDone p s =
      { s with
        flags := s.flags.set p { s.flags.get p with commitDone := true },
        alert := s.alert.set p ((latchCommitDone p s).alertLevel p) } := rfl

/-- The banks swapped and the COMMIT answered, COMMIT_DONE not yet latched: the shadow is active with full buckets, zero counters
and its own refill tick, and the old active bank drains or reloads (R117, R118, R121, R139). -/
def State.swapped (s : State) (j : CommitJob) : State :=
  { s with
    bc :=
      { s.bc with
        active := s.shadowId, dirty := false, commit := none,
        shadow := if s.bc.holders.get s.bc.active = 0 then .reloading else .draining },
    accounts := s.accounts.set s.shadowId (freshAccounts (s.bank.get s.shadowId)),
    refill := some (s.bank.get s.shadowId).header.refillTick,
    slot := s.slot.set j.port ⟨.ok, be16 (s.bank.get s.shadowId).header.tag⟩, job := s.job.set j.port none }

theorem swapBanks_eq (j : CommitJob) (s : State) : swapBanks j s = latchCommitDone j.port (s.swapped j) := rfl

/-- The active accounts after a swap are those of a bank that becomes active (R117, R121). -/
theorem swapped_accounts (j : CommitJob) (s : State) :
    (s.swapped j).accounts.get s.shadowId = freshAccounts (s.bank.get s.shadowId) := by
  simp [State.swapped]

/-- A completed SHADOW_RELOAD answers its port's slot and is no longer in progress; any other port is as before
(R132, R168). -/
theorem completeReloadJob_eq (p : Port) (s : State) :
    completeReloadJob p s =
      { s with
        slot := s.slot.set p (if s.job.get p = some .shadowReload then ⟨.ok, []⟩ else s.slot.get p),
        job := s.job.set p (if s.job.get p = some .shadowReload then none else s.job.get p) } := by
  unfold completeReloadJob
  split
  · rfl
  · rw [PerPort.set_get, PerPort.set_get]

/-- Once the shadow is a copy of the active bank both banks are the active one. -/
theorem set_shadow_active (s : State) : s.bank.set s.shadowId (s.bank.get s.bc.active) = .both (s.bank.get s.bc.active) := by
  unfold State.shadowId
  cases s.bc.active <;> rfl

theorem completeReload_idle {s : State} (h : s.bc.shadow ≠ .reloading) : completeReload s = s := if_neg h

/-- The end of a reload: both banks are the active one, and each port that waits for a SHADOW_RELOAD is answered (R132). -/
theorem completeReload_reloads {s : State} (h : s.bc.shadow = .reloading) :
    completeReload s =
      { s with
        bank := .both (s.bank.get s.bc.active), bc := { s.bc with shadow := .editable, dirty := false },
        slot :=
          ⟨if s.job.up0 = some .shadowReload then ⟨.ok, []⟩ else s.slot.up0,
           if s.job.up1 = some .shadowReload then ⟨.ok, []⟩ else s.slot.up1⟩,
        job :=
          ⟨if s.job.up0 = some .shadowReload then none else s.job.up0,
           if s.job.up1 = some .shadowReload then none else s.job.up1⟩ } := by
  unfold completeReload
  rw [if_pos h, completeReloadJob_eq, completeReloadJob_eq, ← set_shadow_active]
  rfl

/-- Settles O51: the swap is `State.swapped` with COMMIT_DONE latched, and a reload is `completeReload_reloads`. -/
theorem commitAndReloadComplete : Obligations.CommitAndReloadComplete := by
  intro s hp
  refine ⟨fun hj => ?_, fun j hj => ?_, fun hr => ?_, fun hr => ?_⟩
  · rw [exec_validationCompletion hp, completeValidation_idle hj]
  · intro k hf
    have haccounts : (latchCommitDone j.port (s.swapped j)).accounts.get s.shadowId = freshAccounts k :=
      swapped_accounts j s
    refine ⟨latchCommitDone j.port (s.swapped j), ?_, ?_, fun i => ?_⟩
    · rw [exec_validationCompletion hp, completeValidation_passes hj hf, swapBanks_eq]
    · rw [haccounts]
      exact latchCommitDone_eq j.port (s.swapped j)
    · rw [haccounts, freshAccounts_account]
      rfl
  · rw [exec_reloadCompletion hp, completeReload_idle hr]
  · rw [exec_reloadCompletion hp, completeReload_reloads hr]

/-! ## The holder's commands on queue, counters and settings (R124, R153, R172, R175, R180) -/

section

variable {p : Port} {s : State} (hs : s.serves p) (hh : s.holder = some p)
include hs hh

theorem exec_violationAck (n : Byte) :
    exec (.violationAck p n) s = .next (ackViolations p n { s with idle := s.idleAfter p }) :=
  congrArg Host.Outcome.next (viaFrame_runs hs (List.mem_singleton.mpr rfl) (.inr hh))

theorem exec_countersClear :
    exec (.countersClear p) s = .next (finishCommand p .ok [] (clearCounters { s with idle := s.idleAfter p })) :=
  congrArg Host.Outcome.next (viaFrame_runs hs (List.mem_singleton.mpr rfl) (.inr hh))

theorem exec_settingsWrite {l : List Byte} (hl : l.length = 16) :
    exec (.settingsWrite p l) s = .next (writeSettings p l { s with idle := s.idleAfter p }) :=
  congrArg Host.Outcome.next (viaFrame_runs hs (List.mem_singleton.mpr hl) (.inr hh))

end

/-- A removal clears the overflow counter when it takes every record there is (R153). -/
theorem removeViolations_eq (n : Nat) (s : State) :
    removeViolations n s =
      evalAlerts { s with
        queue :=
          { s.queue with
            records := s.queue.records.drop n,
            overflow := if s.queue.records.length ≤ n then 0 else s.queue.overflow } } := by
  unfold removeViolations
  simp only [List.drop_eq_nil_iff]
  rfl

theorem clearCounters_active (s : State) (i : EntryIdx) :
    tableGet ((clearCounters s).accounts.get s.bc.active) i =
      { tableGet (s.accounts.get s.bc.active) i with hits := 0, violations := 0 } := by
  simp [clearCounters, clearCounts]

theorem clearCounters_shadow (s : State) : (clearCounters s).accounts.get s.shadowId = s.accounts.get s.shadowId := by
  simp [clearCounters, State.shadowId]

theorem writeSettings_some {p : Port} {l : List Byte} {r : Settings} (h : settingsOfBytes l = some r) (s : State) :
    writeSettings p l s = finishCommand p .ok [] (evalAlerts (s.setSettings r)) := by
  unfold writeSettings
  rw [h]

theorem writeSettings_none {p : Port} {l : List Byte} (h : settingsOfBytes l = none) (s : State) :
    writeSettings p l s = finishCommand p .range [] s := by
  unfold writeSettings
  rw [h]

/-- Settles O56: each row is its command's frame; an evaluation of the alert lines leaves what their levels rest on, so the levels it
sets are those of the state it leaves. -/
theorem queueCounterAndSettingsCommandsAct : Obligations.QueueCounterAndSettingsCommandsAct := by
  intro p s hs hh ok
  have ⟨_, _, hj, _⟩ := hs
  refine ⟨fun n => ⟨_, exec_violationAck hs hh n, ?_⟩, ⟨_, exec_countersClear hs hh, ?_, fun i => ?_, ?_⟩,
    fun l hl => ⟨fun r hr => ⟨_, exec_settingsWrite hs hh hl, ?_⟩, fun hr => ?_⟩⟩
  · rw [ackViolations, removeViolations_eq, finishCommand_idle (by exact hj)]
    rfl
  · rw [finishCommand_idle (by exact hj)]
    rfl
  · exact clearCounters_active { s with idle := s.idleAfter p } i
  · exact clearCounters_shadow { s with idle := s.idleAfter p }
  · rw [writeSettings_some hr, finishCommand_idle (by exact hj)]
    rfl
  · rw [exec_settingsWrite hs hh hl, writeSettings_none hr, finishCommand_answered hs]

end Sys2Proof.Machine
end

section
/-!
PROOFS. The banks over every step: holder counts and the shadow's state (R126, R128, R139 to R142), what lockdown fixes (R127, R142,
R143, R145), and what the end of a RESET_N leaves (R144, R145, R183, R185, R186).
-/

namespace Sys2Proof.Machine

/-! ## Holder counts and the shadow's state -/

/-- In service the two statements about the Bank Controller are its invariant `BankInv`. -/
theorem bankInv_iff {s : State} (hp : s.phase = .inService) : BankInv s ↔ HoldersSafe s ∧ ShadowSafe s :=
  and_congr_right fun _ => ⟨fun h _ => h, fun h => h hp⟩

/-- In a reset the shadow's state is bound by nothing. -/
theorem shadowSafe_outside {s : State} (hp : s.phase ≠ .inService) : ShadowSafe s := fun h => absurd h hp

/-- A device enters service with no bank held; its shadow then only has to be locked exactly under lockdown, and to be neither
draining nor validating (R126). -/
theorem enterService_bankInv (straps : Straps) (settings : Settings) (bank : PerBank Bank) (bc : BankController)
    (accounts : PerBank (Vector EntryAccount 128)) (s : State) (hholders : bc.holders = .both 0) (hcommit : bc.commit = none)
    (hdraining : bc.shadow ≠ .draining) (hvalidating : bc.shadow ≠ .validating)
    (hlocked : bc.shadow = .locked ↔ bc.locked = true) : BankInv (enterService straps settings bank bc accounts s) := by
  refine ⟨fun k => ?_, iff_of_false hdraining ?_, iff_of_false hvalidating ?_, hlocked⟩
  · show bc.holders.get k = 0
    rw [hholders, PerBank.get_both]
  · show ¬ 0 < bc.holders.get bc.active.other
    rw [hholders, PerBank.get_both]
    exact Nat.lt_irrefl 0
  · show ¬ bc.commit.isSome = true
    rw [hcommit]
    exact Bool.false_ne_true

theorem enterWithContents_bankInv (straps : Straps) (settings : Settings) (s : State) :
    BankInv (enterWithContents straps settings s) :=
  enterService_bankInv _ _ _ _ _ s rfl rfl (by decide) (by decide) (by decide)

theorem enterWithLocked_bankInv (straps : Straps) (s : State) : BankInv (enterWithLocked straps s) :=
  enterService_bankInv _ _ _ _ _ s rfl rfl nofun nofun (iff_of_true rfl rfl)

/-- When a reset begins no session holds a bank (R51). -/
theorem beginReset_holdersSafe (ph : ResetPhase) (s : State) : HoldersSafe (beginReset ph s) :=
  fun _ => PerBank.get_both _ _

theorem reset_holdersAndShadow {c : Instr} {s t : State} (hc : resetCommand c = true) (h : exec c s = .next t)
    (hs : HoldersSafe s ∧ ShadowSafe s) : HoldersSafe t ∧ ShadowSafe t := by
  rcases reset_cases c s t h hc with ⟨_, -, hph, rfl | rfl⟩ | ⟨-, rfl⟩ | ⟨_, rfl⟩ | ⟨_, -, -, rfl⟩ | ⟨_, -, -, rfl⟩ |
    ⟨_, _, -, rfl⟩ | ⟨_, -, rfl⟩ | rfl
  · exact ⟨beginReset_holdersSafe _ _, shadowSafe_outside hph⟩
  · exact ⟨beginReset_holdersSafe _ _, shadowSafe_outside hph⟩
  · exact hs
  · exact hs
  · exact (bankInv_iff rfl).mp (enterWithLocked_bankInv _ s)
  · exact (bankInv_iff rfl).mp (enterWithContents_bankInv _ _ s)
  · exact (bankInv_iff rfl).mp (enterWithContents_bankInv _ _ s)
  · exact ⟨hs.1, shadowSafe_outside nofun⟩
  · exact hs

/-- Settles O11: in service `BankInv` is kept by every effect, and each command of a reset keeps both statements. -/
theorem holdersAndShadowAgree : Obligations.HoldersAndShadowAgree := by
  intro s t hholders hshadow
  refine step_keeps (P := fun s => HoldersSafe s ∧ ShadowSafe s) (fun _ _ => Iff.rfl) (fun u v hp he hu => ?_)
    (fun _ _ _ hc h => reset_holdersAndShadow hc h) s t ⟨hholders, hshadow⟩
  exact (bankInv_iff (he.phase.trans hp)).mp (he.bankInv ((bankInv_iff hp).mpr hu))

/-! ## Lockdown -/

/-- An effect on a locked shadow with no commit in progress changes no bank, and of the Bank Controller the holder counts alone:
an edit, a staging command and a reload find the shadow in another state, and a validation has no commit to end (R127, R129, R142). -/
theorem Effect.locked_frame {s t : State} (h : Effect s t) (hshadow : s.bc.shadow = .locked) (hcommit : s.bc.commit = none) :
    t.bank = s.bank ∧ t.bc = { s.bc with holders := t.bc.holders } := by
  induction h with
  | same h => exact ⟨h.bank, by rw [h.bc]⟩
  | trans _ _ ih ih' =>
    obtain ⟨hbank, hbc⟩ := ih hshadow hcommit
    obtain ⟨hbank', hbc'⟩ := ih' (by rw [hbc]; exact hshadow) (by rw [hbc]; exact hcommit)
    refine ⟨hbank'.trans hbank, ?_⟩
    rw [hbc] at hbc'
    exact hbc'
  | append v s =>
    obtain ⟨-, -, -, -, hbank, hbc, -⟩ := appendViolation_other v s
    exact ⟨hbank, by rw [hbc]⟩
  | capture p s => unfold captureBank; split <;> exact ⟨rfl, rfl⟩
  | release p s =>
    rw [releaseBank_eq]
    exact ⟨rfl, by simp [bankReleased, hshadow]⟩
  | edit f s hf hl he => cases hshadow.symm.trans he
  | stage f s he => cases hshadow.symm.trans he
  | reload s hr => cases hshadow.symm.trans hr
  | swap j s hj => cases hcommit.symm.trans hj
  | fail j f s hj => cases hcommit.symm.trans hj
  | _ => exact ⟨rfl, rfl⟩

/-- Lockdown is set on a locked shadow, with no commit in progress, outside a power-on reset. -/
def State.lockedDown (s : State) : Prop :=
  s.bc.locked = true ∧ s.bc.shadow = .locked ∧ s.bc.commit = none ∧ ∀ b, s.phase ≠ .powerOn b

/-- The policy of a device under lockdown: lockdown stays, and the active bank and its contents with it. -/
def KeepsLocked (s t : State) : Prop :=
  t.lockedDown ∧ t.bc.active = s.bc.active ∧ t.bank.get t.bc.active = s.bank.get s.bc.active

theorem KeepsLocked.refl {s : State} (hs : s.lockedDown) : KeepsLocked s s := ⟨hs, rfl, rfl⟩

theorem Effect.keepsLocked {s t : State} (h : Effect s t) (hs : s.lockedDown) : KeepsLocked s t := by
  obtain ⟨hlocked, hshadow, hcommit, hphase⟩ := hs
  obtain ⟨hbank, hbc⟩ := h.locked_frame hshadow hcommit
  unfold KeepsLocked State.lockedDown
  rw [hbank, hbc, h.phase]
  exact ⟨⟨hlocked, hshadow, hcommit, hphase⟩, rfl, rfl⟩

/-- A RESET_N reset begins with the policy kept, and ends under lockdown with the active bank in both banks (R145). -/
theorem reset_keepsLocked {c : Instr} {s t : State} (hc : resetCommand c = true) (hne : c ≠ .powerOnReset)
    (h : exec c s = .next t) (hs : s.lockedDown) : KeepsLocked s t := by
  have ⟨hlocked, hshadow, _, hphase⟩ := hs
  rcases reset_cases c s t h hc with ⟨ph, hph, -, rfl | rfl⟩ | ⟨-, rfl⟩ | ⟨_, rfl⟩ | ⟨_, -, -, rfl⟩ | ⟨_, -, hl, -⟩ |
    ⟨_, b, hp, -⟩ | ⟨b, hp, -⟩ | rfl
  · exact ⟨⟨hlocked, hshadow, rfl, fun b hb => hne (hph b hb)⟩, rfl, rfl⟩
  · exact ⟨⟨hlocked, hshadow, rfl, fun b hb => hne (hph b hb)⟩, rfl, rfl⟩
  · exact ⟨hs, rfl, rfl⟩
  · exact ⟨hs, rfl, rfl⟩
  · exact ⟨⟨rfl, rfl, rfl, nofun⟩, rfl, PerBank.get_both _ _⟩
  · cases hlocked.symm.trans hl
  · exact absurd hp (hphase b)
  · exact absurd hp (hphase b)
  · exact .refl hs

/-- Settles O17: every effect on a locked shadow is framed by `Effect.locked_frame`, and of the commands of a reset only a power-on
reset drops the lockdown. -/
theorem lockdownFixesPolicy : Obligations.LockdownFixesPolicy := by
  intro c s t hs hne h
  cases hc : resetCommand c with
  | true => exact reset_keepsLocked hc hne h hs
  | false => exact (exec_effect c s t h hc).keepsLocked hs

/-! ## The end of a RESET_N reset -/

/-- The end of a RESET_N under lockdown starts fresh too: of the two copies of the active bank only the active one has buckets
(R145, R185). -/
theorem enterWithLocked_startsFresh (straps : Straps) (s : State) : StartsFresh (enterWithLocked straps s) := by
  refine enterService_startsFresh _ _ _ _ _ s rfl rfl rfl (fun k i => ?_) (by simp)
  by_cases hk : k = s.bc.active
  · simp [hk, freshAccounts_account]
  · simp [hk, zeroAccounts, zeroAccount]

theorem endResetN_locked {pins : StrapPins} {s : State} (hl : s.bc.locked = true) :
    endResetN pins s = enterWithLocked (latchStraps pins) s := if_pos hl

theorem endResetN_unlocked {pins : StrapPins} {s : State} (hl : s.bc.locked = false) :
    endResetN pins s = enterWithContents (latchStraps pins) s.settings s := if_neg (by simp [hl])

theorem takeResetHigh_resetN {pins : StrapPins} {s : State} (hp : s.phase = .resetN) :
    takeResetHigh pins s = endResetN pins s := by
  unfold takeResetHigh
  rw [hp]

/-- Settles O6: `endResetN` enters service with reset contents, or under lockdown with the active bank. -/
theorem resetNEnds : Obligations.ResetNEnds := by
  intro pins s hp
  refine ⟨_, congrArg Host.Outcome.next (takeResetHigh_resetN hp), ?_⟩
  cases hl : s.bc.locked with
  | false =>
    rw [endResetN_unlocked hl]
    refine ⟨enterWithContents_startsFresh _ _ s, rfl, rfl, rfl, fun _ => ⟨rfl, rfl, rfl, fun k => ?_⟩, nofun⟩
    cases k <;> exact resetBank_hasResetContents _
  | true =>
    rw [endResetN_locked hl]
    exact ⟨enterWithLocked_startsFresh _ s, rfl, rfl, rfl, nofun, fun _ => ⟨rfl, rfl, rfl, fun k => PerBank.get_both _ k⟩⟩

end Sys2Proof.Machine
end

section
/-!
PROOFS. The reads of a bank, and the management session (R131, R134, R163, R166, R167, R170).
-/

namespace Sys2Proof.Machine

/-! ## The reads of a bank -/

theorem yesNoOfByte_eq_none {x : Byte} (h : 2 ≤ x.toNat) : yesNoOfByte x = none := by
  unfold yesNoOfByte
  split
  · omega
  · omega
  · rfl

theorem windowIdxOfByte_ofNat (j : WindowIdx) : windowIdxOfByte (BitVec.ofNat 8 j.val) = j := by
  apply Fin.ext
  show (BitVec.ofNat 8 j.val).toNat = j.val
  rw [BitVec.toNat_ofNat]
  exact Nat.mod_eq_of_lt j.isLt

section

variable (p : Port) (item : Bank → Option (List Byte)) {s : State}

/-- A bank select above 1 selects no bank (R170). -/
theorem readBank_range {x : Byte} (h : 2 ≤ x.toNat) : readBank p x item s = finishCommand p .range [] s := by
  unfold readBank
  rw [yesNoOfByte_eq_none h]

/-- The active bank is read in every state (R131). -/
theorem readBank_active : readBank p 0 item s = answerRead p (item (s.bank.get s.bc.active)) s := rfl

theorem readBank_locked (hl : s.bc.locked = true) : readBank p 1 item s = finishCommand p .locked [] s := if_pos hl

theorem readBank_busy (hl : s.bc.locked = false) (he : s.bc.shadow ≠ .editable) :
    readBank p 1 item s = finishCommand p .busy [] s :=
  (if_neg (by simp [hl])).trans (if_pos he)

/-- The shadow is read in EDITABLE alone (R131). -/
theorem readBank_shadow (hl : s.bc.locked = false) (he : s.bc.shadow = .editable) :
    readBank p 1 item s = answerRead p (item (s.bank.get s.shadowId)) s :=
  (if_neg (by simp [hl])).trans (if_neg (not_not_intro he))

end

section

variable {p : Port} {s : State} (hs : s.serves p)
include hs

theorem exec_headerRead (x : Byte) :
    exec (.headerRead p x) s = .next (readBank p x (fun k => some (headerImage k.header)) (s.touched p)) :=
  congrArg _ (viaFrame_runs hs (List.mem_singleton.mpr rfl) (.inl rfl))

theorem exec_entryRead (x y : Byte) :
    exec (.entryRead p x y) s =
      .next (readBank p x (fun k => (entryIdxOfByte y).map fun i => entryImage (tableGet k.entries i)) (s.touched p)) :=
  congrArg _ (viaFrame_runs hs (List.mem_singleton.mpr rfl) (.inl rfl))

theorem exec_windowRead (x y : Byte) :
    exec (.windowRead p x y) s =
      .next (readBank p x (fun k => some (windowImage (tableGet k.windows (windowIdxOfByte y)))) (s.touched p)) :=
  congrArg _ (viaFrame_runs hs (List.mem_singleton.mpr rfl) (.inl rfl))

end

/-- Settles O53: each read is `readBank` of its item, which answers by the bank select, the lockdown and the shadow's state. -/
theorem bankReadsAnswer : Obligations.BankReadsAnswer := by
  intro p s c select item hs hc served
  have hrun : exec c s = .next (readBank p select item (s.touched p)) := by
    rcases hc with ⟨rfl, rfl⟩ | ⟨i, rfl, rfl⟩ | ⟨x, rfl, hx, rfl⟩ | ⟨j, rfl, rfl⟩
    · exact exec_headerRead hs select
    · rw [exec_entryRead hs, entryIdxOfByte_ofNat]
      rfl
    · rw [exec_entryRead hs, entryIdxOfByte_eq_none hx]
      rfl
    · rw [exec_windowRead hs, windowIdxOfByte_ofNat]
  have hserved : ∀ k, .next (answerRead p (item (s.bank.get k)) (s.touched p)) = served k := fun k => by
    unfold answerRead
    dsimp only [served]
    cases item (s.bank.get k) <;> exact congrArg _ (finishCommand_touched hs _ _)
  rw [hrun]
  refine ⟨fun h => ?_, fun h => ?_, fun h => ⟨fun hl => ?_, fun hl he => ?_, fun hl he => ?_⟩⟩
  · rw [readBank_range p item h, finishCommand_touched hs]
  · rw [h, readBank_active]
    exact hserved _
  · rw [h, readBank_locked p item (by exact hl), finishCommand_touched hs]
  · rw [h, readBank_busy p item (by exact hl) (by exact he), finishCommand_touched hs]
  · rw [h, readBank_shadow p item (by exact hl) (by exact he)]
    exact hserved _

/-! ## The management session -/

theorem State.touched_of_holder {s : State} {p : Port} (h : s.holder = some p) :
    s.touched p = { s with idle := some s.settings.idleTimeout } := by
  unfold State.touched State.idleAfter
  rw [if_pos h]

/-- A frame of a port that does not hold the session starts no timer (R167). -/
theorem State.touched_of_not_holder {s : State} {p : Port} (h : s.holder ≠ some p) : s.touched p = s := by
  unfold State.touched State.idleAfter
  rw [if_neg h]

section

variable {p : Port} {s : State} (hs : s.serves p)
include hs

theorem exec_sessionOpen : exec (.sessionOpen p) s = .next (openSession p (s.touched p)) :=
  congrArg _ (viaFrame_runs hs (List.mem_singleton.mpr rfl) (.inl rfl))

theorem exec_sessionClose : exec (.sessionClose p) s = .next (closeSession p (s.touched p)) :=
  congrArg _ (viaFrame_runs hs (List.mem_singleton.mpr rfl) (.inl rfl))

end

section

variable {p : Port} {s : State} (hj : s.job.get p = none)
include hj

/-- SESSION_OPEN of the holder, or with the session free (R166). -/
theorem openSession_opens (h : s.holder ≠ some p.other) :
    openSession p s =
      { s with holder := some p, idle := some s.settings.idleTimeout, slot := s.slot.set p ⟨.ok, []⟩ } := by
  unfold openSession
  cases hh : s.holder with
  | none => exact finishCommand_idle hj
  | some q =>
    have hq : q = p := (Port.eq_or_other p q).resolve_right fun e => h (e ▸ hh)
    dsimp only
    rw [if_pos hq, finishCommand_idle (by exact hj), ← hq, ← hh]
    rfl

/-- SESSION_OPEN with the session of the other port open (R166). -/
theorem openSession_owned (h : s.holder = some p.other) :
    openSession p s = { s with slot := s.slot.set p ⟨.owned, [Port.code p.other]⟩ } := by
  unfold openSession
  rw [h]
  dsimp only
  rw [if_neg (Port.other_ne p), finishCommand_idle hj, ← h]

theorem closeSession_closes (h : s.holder = some p) :
    closeSession p s = { s with holder := none, idle := none, slot := s.slot.set p ⟨.ok, []⟩ } := by
  unfold closeSession
  rw [if_pos h, finishCommand_idle (by exact hj)]
  rfl

theorem closeSession_noSession (h : s.holder ≠ some p) : closeSession p s = s.slotted p .noSession := by
  unfold closeSession
  rw [if_neg h, finishCommand_idle hj]
  rfl

end

/-- Settles O54: the two session commands by the holder they find; and what answers every frame before its command acts. -/
theorem sessionsOpenAndClose : Obligations.SessionsOpenAndClose := by
  intro p s
  refine ⟨fun hs => ?_, fun c code args hf => ?_⟩
  · have ⟨_, _, hj, _⟩ := hs
    rw [exec_sessionOpen hs, exec_sessionClose hs]
    refine ⟨fun h => ?_, fun h => ?_, fun h => ?_, fun h => ?_⟩
    · exact congrArg _ (openSession_opens (s := s.touched p) hj h)
    · have hne : s.holder ≠ some p := by simp [h]
      rw [State.touched_of_not_holder hne, openSession_owned hj h]
      cases p <;> rfl
    · exact congrArg _ (closeSession_closes (s := s.touched p) hj h)
    · rw [State.touched_of_not_holder h, closeSession_noSession hj h]
  · obtain ⟨k, -, hrun, hlen, hneeds⟩ := exec_frameOf hf
    rw [hrun]
    refine ⟨fun hs hholder h => ?_, fun hs hw => ?_, fun hs => ?_⟩
    · obtain ⟨hw, q, code', args', hf', hcode⟩ := hholder
      cases hf.symm.trans hf'
      rw [viaFrame_noSession hs (hlen.mp hw) (hneeds.mpr hcode) h]
    · have hbad : args.length ∉ k.lengths := fun hmem => by
        rw [hlen.mpr hmem] at hw
        cases hw
      rw [viaFrame_badLength hs hbad]
    · rw [viaFrame_unserved hs]

end Sys2Proof.Machine
end

section
/-!
PROOFS. The Violation Queue, the Settings record and the alert lines over every step (R148, R149, R153, R157, R158, R179, R185).
-/

namespace Sys2Proof.Machine

/-! ## The Violation Queue and the Settings record -/

theorem emptyQueue_safe : QueueSafe emptyQueue := by
  refine ⟨Nat.zero_le 32, fun i v hv => ?_, fun _ => rfl⟩
  simp [emptyQueue] at hv

/-- The defaults are in the ranges of R179. -/
theorem defaultSettings_safe : SettingsSafe defaultSettings := by
  refine ⟨fun p => ?_, by decide, by decide, by decide⟩
  cases p <;> decide

/-- A command of a reset leaves the queue and the Settings record, or ends a reset: the queue is then empty, and the record is kept or
takes its defaults (R185 and the table of chapter 10.5). -/
theorem reset_records {c : Instr} {s t : State} (hc : resetCommand c = true) (h : exec c s = .next t) :
    (t.queue = s.queue ∨ t.queue = emptyQueue) ∧ (t.settings = s.settings ∨ t.settings = defaultSettings) := by
  rcases reset_cases c s t h hc with ⟨_, -, -, rfl | rfl⟩ | ⟨-, rfl⟩ | ⟨_, rfl⟩ | ⟨_, -, -, rfl⟩ | ⟨_, -, -, rfl⟩ |
    ⟨_, _, -, rfl⟩ | ⟨_, -, rfl⟩ | rfl
  case inr.inr.inr.inl => exact ⟨.inr rfl, .inl rfl⟩
  case inr.inr.inr.inr.inl => exact ⟨.inr rfl, .inl rfl⟩
  case inr.inr.inr.inr.inr.inl => exact ⟨.inr rfl, .inr rfl⟩
  all_goals exact ⟨.inl rfl, .inl rfl⟩

theorem reset_queueSafe {c : Instr} {s t : State} (hc : resetCommand c = true) (h : exec c s = .next t)
    (hs : QueueSafe s.queue) : QueueSafe t.queue := by
  rcases (reset_records hc h).1 with hq | hq <;> rw [hq]
  · exact hs
  · exact emptyQueue_safe

theorem reset_settingsSafe {c : Instr} {s t : State} (hc : resetCommand c = true) (h : exec c s = .next t)
    (hs : SettingsSafe s.settings) : SettingsSafe t.settings := by
  rcases (reset_records hc h).2 with hr | hr <;> rw [hr]
  · exact hs
  · exact defaultSettings_safe

/-- Settles O9: both invariants are kept by every effect and by every command of a reset. -/
theorem queueAndSettingsStayInRange : Obligations.QueueAndSettingsStayInRange := fun s t h =>
  ⟨fun hs => step_keeps (P := fun s => QueueSafe s.queue) (fun _ _ => Iff.rfl) (fun _ _ _ he => he.queueSafe)
      (fun _ _ _ => reset_queueSafe) s t hs h,
    fun hs => step_keeps (P := fun s => SettingsSafe s.settings) (fun _ _ => Iff.rfl) (fun _ _ _ he => he.settingsSafe)
      (fun _ _ _ => reset_settingsSafe) s t hs h⟩

/-! ## The alert lines -/

/-- With no flag latched QUEUE alone can pull a line low (R156, R157). -/
theorem alertLevel_of_noFlags {s : State} {p : Port} (hf : s.flags.get p = noFlags) :
    s.alertLevel p =
      if (s.settings.port.get p).mask.queue = true ∧ s.settings.watermark.toNat ≤ s.queue.records.length then .low
      else .high := by
  unfold State.alertLevel
  rw [hf]
  simp [alertHolds, noFlags, State.queueHolds, State.limits]

/-- In a reset both lines are released (R158). -/
theorem alertsSafe_of_released {s : State} (hp : s.phase ≠ .inService) (h : ∀ p, s.alert.get p = .high) : AlertsSafe s :=
  fun p => by rw [h p, if_neg hp]

theorem beginReset_alertsSafe {ph : ResetPhase} (hph : ph ≠ .inService) (s : State) : AlertsSafe (beginReset ph s) :=
  alertsSafe_of_released hph fun p => PerPort.get_both _ p

/-- A device enters service with both lines high, as they should be: no flag is latched, and an empty queue is below every watermark
(R157, R179, R185). -/
theorem enterService_alertsSafe (straps : Straps) {settings : Settings} (bank : PerBank Bank) (bc : BankController)
    (accounts : PerBank (Vector EntryAccount 128)) (s : State) (hset : SettingsSafe settings) :
    AlertsSafe (enterService straps settings bank bc accounts s) := by
  intro p
  obtain ⟨-, -, ⟨hmark, -⟩, -⟩ := hset
  have hempty : ¬ settings.watermark.toNat ≤ emptyQueue.records.length := Nat.not_le.mpr hmark
  have hlevel : (enterService straps settings bank bc accounts s).alertLevel p = .high := by
    rw [alertLevel_of_noFlags (PerPort.get_both _ p)]
    exact if_neg fun h => hempty h.2
  rw [hlevel, ite_self]
  exact PerPort.get_both _ p

/-- A command of a reset leaves the lines and what their levels rest on, releases both, or ends the reset with both high. -/
theorem reset_alertsSafe {c : Instr} {s t : State} (hc : resetCommand c = true) (h : exec c s = .next t)
    (hset : SettingsSafe s.settings) (hs : AlertsSafe s) : AlertsSafe t := by
  rcases reset_cases c s t h hc with ⟨_, -, hph, rfl | rfl⟩ | ⟨-, rfl⟩ | ⟨_, rfl⟩ | ⟨_, -, -, rfl⟩ | ⟨_, -, -, rfl⟩ |
    ⟨_, _, -, rfl⟩ | ⟨b, hp, rfl⟩ | rfl
  · exact beginReset_alertsSafe hph _
  · exact beginReset_alertsSafe hph _
  · exact hs
  · exact hs
  · exact enterService_alertsSafe _ _ _ _ s hset
  · exact enterService_alertsSafe _ _ _ _ s hset
  · exact enterService_alertsSafe _ _ _ _ s defaultSettings_safe
  · refine alertsSafe_of_released nofun fun p => (hs p).trans (if_neg ?_)
    rw [hp]
    exact nofun
  · exact hs

/-- Settles O10: the lines stay at their levels together with the range of the Settings record, whose watermark above 0 keeps them high
at the end of a reset. -/
theorem alertLinesFollow : Obligations.AlertLinesFollow := fun s t hset hs h =>
  (step_keeps (P := fun s => SettingsSafe s.settings ∧ AlertsSafe s) (fun _ _ => Iff.rfl)
    (fun _ _ hp he hu => ⟨he.settingsSafe hu.1, he.alertsSafe hp hu.2⟩)
    (fun _ _ _ hc h hu => ⟨reset_settingsSafe hc h hu.1, reset_alertsSafe hc h hu.1 hu.2⟩) s t ⟨hset, hs⟩ h).2

end Sys2Proof.Machine
end

section
/-!
PROOFS. The reads of device state (R152, R155, R157, R169, R171, R172, R188, R190, R191).
-/

namespace Sys2Proof.Machine

/-! ## The payloads -/

theorem portCode_eq (q : Option Port) : portCode q = if q = some .up0 then 1 else if q = some .up1 then 2 else 0 := by
  rcases q with _ | _ | _ <;> rfl

theorem BankId.code_eq (k : BankId) : BankId.code k = if k = .a then 0 else 1 := by
  cases k <;> rfl

/-- The flags byte, bit by bit (R191). -/
theorem flagsByte_eq (f : AlertFlags) :
    flagsByte f =
      (if f.segmentEvent then 1 else 0) + (if f.commitDone then 2 else 0) + (if f.overflow then 4 else 0) := by
  obtain ⟨e, c, o⟩ := f
  revert e c o
  decide

/-- The byte of STATUS_READ that reports dirty and lockdown (R191). -/
theorem editByte_eq (locked dirty : Bool) :
    (0#6 ++ bit locked ++ bit dirty : BitVec (6 + 1 + 1)) = (if dirty then 1 else 0) + (if locked then 2 else 0) := by
  revert locked dirty
  decide

theorem identPayload_eq (s : State) :
    identPayload s = [0x4B, 0x4A, 0x42, 0x00, 0x01] ++ be16 (s.bank.get s.bc.active).header.tag := rfl

theorem violationPayload_eq (s : State) :
    violationPayload s =
      [BitVec.ofNat 8 s.queue.records.length] ++ be16 s.queue.overflow ++ (s.queue.records.take 2).flatMap recordBytes := by
  unfold violationPayload
  rw [funext recordImage_eq]

theorem counterPayload_active (i : EntryIdx) (s : State) :
    counterPayload 0 (BitVec.ofNat 8 i.val) s = some (accountPayload s s.bc.active i) :=
  congrArg (Option.map _) (entryIdxOfByte_ofNat i)

theorem counterPayload_shadow (i : EntryIdx) (s : State) :
    counterPayload 3 (BitVec.ofNat 8 i.val) s = some (accountPayload s s.shadowId i) :=
  congrArg (Option.map _) (entryIdxOfByte_ofNat i)

/-- The kinds and indices that name no counters (R171). -/
theorem counterPayload_eq_none {kind index : Byte} (s : State)
    (h : 4 ≤ kind.toNat ∨ ((kind = 0 ∨ kind = 3) ∧ 128 ≤ index.toNat) ∨ ((kind = 1 ∨ kind = 2) ∧ index ≠ 0)) :
    counterPayload kind index s = none := by
  rcases h with hkind | ⟨rfl | rfl, hindex⟩ | ⟨rfl | rfl, hindex⟩
  · unfold counterPayload
    split
    case h_5 => rfl
    all_goals omega
  · exact congrArg (Option.map _) (entryIdxOfByte_eq_none hindex)
  · exact congrArg (Option.map _) (entryIdxOfByte_eq_none hindex)
  · exact if_neg hindex
  · exact if_neg hindex

/-! ## The commands -/

/-- A port's flags cleared, its line follows QUEUE alone (R155, R157). -/
theorem clearPortFlags_eq (p : Port) (s : State) :
    clearPortFlags p s =
      { s with
        flags := s.flags.set p noFlags,
        alert := s.alert.set p
          (if (s.settings.port.get p).mask.queue = true ∧ s.settings.watermark.toNat ≤ s.queue.records.length then .low
           else .high) } := by
  have hflags : (s.updFlags p fun _ => noFlags).flags.get p = noFlags := by simp
  unfold clearPortFlags evalAlert
  rw [alertLevel_of_noFlags hflags]
  rfl

section

variable {p : Port} {s : State} (hs : s.serves p)
include hs

theorem answerRead_some (l : List Byte) : answerRead p (some l) (s.touched p) = s.answered p .ok l :=
  finishCommand_touched hs .ok l

theorem answerRead_none : answerRead p none (s.touched p) = s.answered p .range [] :=
  finishCommand_touched hs .range []

/-- A read is executed whether or not its port holds the session (R163). -/
theorem viaFrame_reads {k : MgmtCommand} {args : List Byte} (hlen : args.length ∈ k.lengths) (hk : k.needsSession = false) :
    inService (viaFrame p k args) s = perform p k args (s.touched p) :=
  viaFrame_runs hs hlen (.inl hk)

theorem exec_identRead : exec (.identRead p) s = .next (s.answered p .ok (identPayload s)) :=
  congrArg _ ((viaFrame_reads (k := .identRead) hs (List.mem_singleton.mpr rfl) rfl).trans (finishCommand_touched hs .ok _))

theorem exec_settingsRead : exec (.settingsRead p) s = .next (s.answered p .ok (settingsImage s.settings)) :=
  congrArg _ ((viaFrame_reads (k := .settingsRead) hs (List.mem_singleton.mpr rfl) rfl).trans (finishCommand_touched hs .ok _))

theorem exec_violationRead : exec (.violationRead p) s = .next (s.answered p .ok (violationPayload s)) :=
  congrArg _ ((viaFrame_reads (k := .violationRead) hs (List.mem_singleton.mpr rfl) rfl).trans (finishCommand_touched hs .ok _))

theorem exec_statusRead (x : Byte) : exec (.statusRead p x) s = .next (readStatus p x (s.touched p)) :=
  congrArg _ (viaFrame_reads hs (List.mem_singleton.mpr rfl) rfl)

theorem exec_segmentStatus (x : Byte) :
    exec (.segmentStatus p x) s = .next (answerRead p ((segOfByte x).map fun g => segmentPayload g s) (s.touched p)) :=
  congrArg _ (viaFrame_reads hs (List.mem_singleton.mpr rfl) rfl)

theorem exec_counterRead (x y : Byte) :
    exec (.counterRead p x y) s = .next (answerRead p (counterPayload x y s) (s.touched p)) :=
  congrArg _ (viaFrame_reads hs (List.mem_singleton.mpr rfl) rfl)

/-- STATUS_READ with clear no reports alone (R169). -/
theorem readStatus_keeps : readStatus p 0 (s.touched p) = s.answered p .ok (statusPayload p s) :=
  finishCommand_touched hs .ok _

/-- STATUS_READ with clear yes reports, then clears (R155). -/
theorem readStatus_clears :
    readStatus p 1 (s.touched p) = clearPortFlags p (s.answered p .ok (statusPayload p s)) :=
  congrArg (clearPortFlags p) (finishCommand_touched hs .ok _)

theorem readStatus_range {x : Byte} (h : 2 ≤ x.toNat) : readStatus p x (s.touched p) = s.answered p .range [] := by
  unfold readStatus
  rw [yesNoOfByte_eq_none h]
  exact finishCommand_touched hs .range []

end

/-- Settles O52: each read is its frame's answer, and each payload is the one the table of R191 lists. -/
theorem statusReadsAnswer : Obligations.StatusReadsAnswer := by
  intro p s hs tag port flags status segment account all ports
  have hport : portCode = port := funext portCode_eq
  have hstatus : statusPayload p s = status := by
    unfold statusPayload
    rw [hport, flagsByte_eq, editByte_eq, BankId.code_eq]
    rfl
  have hsegment : ∀ g, segmentPayload g s = segment g := fun g => by
    unfold segmentPayload
    rw [hport]
  refine ⟨?_, ?_, ?_, ?_, fun c hc => ?_, ?_, fun g => ?_, fun x hx => ?_, fun i => ⟨?_, ?_⟩, ?_, ?_,
    fun kind index h => ?_⟩
  · rw [exec_identRead hs, identPayload_eq]
  · exact exec_settingsRead hs
  · rw [exec_statusRead hs, readStatus_keeps hs, hstatus]
  · rw [exec_statusRead hs, readStatus_clears hs, hstatus, clearPortFlags_eq]
    rfl
  · rw [exec_statusRead hs, readStatus_range hs hc]
  · rw [exec_violationRead hs, violationPayload_eq]
  · rw [exec_segmentStatus hs, segOfByte_code, ← hsegment]
    exact congrArg _ (answerRead_some hs _)
  · rw [exec_segmentStatus hs, segOfByte_none hx]
    exact congrArg _ (answerRead_none hs)
  · rw [exec_counterRead hs, counterPayload_active, answerRead_some hs]
    rfl
  · rw [exec_counterRead hs, counterPayload_shadow, answerRead_some hs]
    rfl
  · rw [exec_counterRead hs]
    exact congrArg _ (answerRead_some hs _)
  · rw [exec_counterRead hs]
    exact congrArg _ (answerRead_some hs _)
  · rw [exec_counterRead hs, counterPayload_eq_none s h, answerRead_none hs]

end Sys2Proof.Machine
end

section
/-!
PROOFS. Response slots and the commands in progress over every step (R163, R164, R168, R184, R185).
-/

namespace Sys2Proof.Machine

/-! ## In service -/

/-- In service the statement about the slots is the invariant `SlotInv`. -/
theorem slotInv_iff {s : State} (hp : s.phase = .inService) : SlotInv s ↔ SlotsSafe s := ⟨fun h _ => h, fun h => h hp⟩

/-- No effect in service parts a slot from its command: only the end of a command, a long command's beginning and its going on
touch either, and each of them writes both to match. -/
theorem Effect.slotsSafe {s t : State} (h : Effect s t) (hp : s.phase = .inService) (hs : SlotsSafe s) : SlotsSafe t :=
  (slotInv_iff (h.phase.trans hp)).mp (h.slotInv ((slotInv_iff hp).mpr hs))

/-! ## The commands of a reset -/

/-- In a reset the slots are bound by nothing: the commands are abandoned at once, the slots keep until its end (R184;
log entry 17). -/
theorem slotsSafe_outside {s : State} (hp : s.phase ≠ .inService) : SlotsSafe s := fun h => absurd h hp

/-- A device enters service with both slots EMPTY and no command in progress (R185 and the table of chapter 10.5). -/
theorem enterService_slotsSafe (straps : Straps) (settings : Settings) (bank : PerBank Bank) (bc : BankController)
    (accounts : PerBank (Vector EntryAccount 128)) (s : State) :
    SlotsSafe (enterService straps settings bank bc accounts s) := by
  intro _ p
  have hslot : (enterService straps settings bank bc accounts s).slot.get p = emptySlot := PerPort.get_both _ p
  have hjob : (enterService straps settings bank bc accounts s).job.get p = none := PerPort.get_both _ p
  rw [hslot, hjob]
  exact iff_of_false nofun nofun

/-- A command of a reset leaves phase, slots and commands, leaves the device outside service, or ends the reset with no command
in progress. -/
theorem reset_slotsSafe {c : Instr} {s t : State} (hc : resetCommand c = true) (h : exec c s = .next t)
    (hs : SlotsSafe s) : SlotsSafe t := by
  rcases reset_cases c s t h hc with ⟨_, -, hph, rfl | rfl⟩ | ⟨-, rfl⟩ | ⟨_, rfl⟩ | ⟨_, -, -, rfl⟩ | ⟨_, -, -, rfl⟩ |
    ⟨_, _, -, rfl⟩ | ⟨_, -, rfl⟩ | rfl
  · exact slotsSafe_outside hph
  · exact slotsSafe_outside hph
  · exact hs
  · exact hs
  · exact enterService_slotsSafe _ _ _ _ _ s
  · exact enterService_slotsSafe _ _ _ _ _ s
  · exact enterService_slotsSafe _ _ _ _ _ s
  · exact slotsSafe_outside nofun
  · exact hs

/-- Settles O12: in service `SlotInv` is kept by every effect, and each command of a reset keeps the statement. -/
theorem slotsShowProgress : Obligations.SlotsShowProgress :=
  step_keeps (fun _ _ => Iff.rfl) (fun _ _ hp h => h.slotsSafe hp) fun _ _ _ hc h => reset_slotsSafe hc h

end Sys2Proof.Machine
end

section
/-!
PROOFS. While a reset lasts, nothing but the commands of a reset acts (R184).
-/

namespace Sys2Proof.Machine

/-- Settles O3: every row but the four of a reset acts through `inService`, which leaves a device outside service as it is
(`exec_outside`). -/
theorem resetTakesNoEvent : Obligations.ResetTakesNoEvent := by
  unfold Obligations.ResetTakesNoEvent
  intro c s hphase hcommand
  exact exec_outside c s hphase hcommand

end Sys2Proof.Machine
end

section
/-!
PROOFS. The queue of commands: what a step takes from it, and that every command answers a next state and leaves it (00_scope.md 6.5).
-/

namespace Sys2Proof.Machine

/-! ## What a step does with the queue -/

theorem step_of_front {c : Instr} {rest : List Instr} {s : State} (h : s.pending = c :: rest) :
    step s = exec c { s with pending := rest } := by
  unfold step
  rw [h]

/-- The command put in front is the one the step takes, and the queue is then as it was. -/
theorem step_withCommand (c : Instr) (s : State) : step (s.withCommand c) = exec c s :=
  step_of_front (s := s.withCommand c) rfl

theorem step_of_noneWaits {s : State} (h : s.pending = []) : step s = .next s := by
  unfold step
  rw [h]

/-- Settles O1: one equation of `step` per shape of the queue. -/
theorem stepTakesFront : Obligations.StepTakesFront :=
  ⟨fun _ _ _ h => step_of_front h, step_withCommand, fun _ h => step_of_noneWaits h⟩

/-! ## What a command does with the queue -/

/-- A command of a reset leaves the queue: the end of a reset too keeps the commands that
wait (log entry 2). -/
theorem reset_pending {c : Instr} {s t : State} (hc : resetCommand c = true) (h : exec c s = .next t) :
    t.pending = s.pending := by
  rcases reset_cases c s t h hc with ⟨_, -, -, rfl | rfl⟩ | ⟨-, rfl⟩ | ⟨_, rfl⟩ | ⟨_, -, -, rfl⟩ | ⟨_, -, -, rfl⟩ |
    ⟨_, _, -, rfl⟩ | ⟨_, -, rfl⟩ | rfl
  all_goals rfl

/-- A command only takes effects, none of which touches the queue, or is one of a reset. -/
theorem exec_pending {c : Instr} {s t : State} (h : exec c s = .next t) : t.pending = s.pending := by
  cases hc : resetCommand c with
  | false => exact (exec_effect c s t h hc).pending
  | true => exact reset_pending hc h

/-- Settles O2: every row of the dispatch answers a next state (`exec_next`), and none touches the queue (`exec_pending`). -/
theorem everyCommandAnswersNext : Obligations.EveryCommandAnswersNext := by
  intro c s
  obtain ⟨t, h⟩ := exec_next c s
  exact ⟨t, h, exec_pending h⟩

end Sys2Proof.Machine
end

section
/-!
PROOFS. The state after a power-on reset: its values (10_settings_straps_and_start_up.md 10.5), and that every invariant holds there.
Both follow from what the end of any power-on reset leaves, of which `State.reset` is one.
-/

namespace Sys2Proof.Machine

/-- The state after reset is what a power-on reset ends in with the straps the model names (log entry 1). -/
theorem reset_eq_endPowerOn : State.reset = endPowerOn Config.resetPins State.reset :=
  (endPowerOn_resetPins State.reset).symm

/-! ## Its values -/

/-- DEFPOL is low in the straps the model names, so the reset contents deny by default (R23; log entry 1). -/
theorem reset_ended :
    StartsFresh State.reset ∧ State.reset.bc.active = .a ∧ State.reset.bc.shadow = .editable ∧
      State.reset.bc.locked = false ∧ ∀ k, HasResetContents false (State.reset.bank.get k) := by
  have h : PowerOnEnded Config.resetPins State.reset State.reset := endPowerOn_ended Config.resetPins State.reset
  obtain ⟨hfresh, -, -, -, hactive, hshadow, hlocked, hbank⟩ := h
  exact ⟨hfresh, hactive, hshadow, hlocked, hbank⟩

theorem StartsFresh.session {t : State} (h : StartsFresh t) (p : Port) : t.session.get p = idleSession := by
  obtain ⟨-, -, hport, -⟩ := h
  obtain ⟨-, hsession, -⟩ := hport p
  exact hsession

/-- Settles O4: the end of a power-on reset starts the device fresh with the reset contents, its Settings record holds the defaults
(R179), and every session is `idleSession` (R25). -/
theorem resetStateValues : Obligations.ResetStateValues := by
  obtain ⟨hfresh, hactive, hshadow, hlocked, hbank⟩ := reset_ended
  refine ⟨hfresh, rfl, hbank, hactive, hshadow, hlocked, fun p => PerPort.get_both _ p, rfl, rfl, rfl, rfl,
    fun g => PerSeg.get_all _ g, fun p => ?_⟩
  rw [State.part, hfresh.session p]
  exact ⟨rfl, rfl, rfl, rfl, rfl, rfl, rfl, rfl, rfl⟩

/-! ## Its invariants -/

/-- A device that starts fresh has no segment owned, sought or being released (R25, R94). -/
theorem StartsFresh.seats {t : State} (h : StartsFresh t) : Seats t := by
  have hsession := h.session
  obtain ⟨-, -, -, hseg, -⟩ := h
  have hdeferred (g : SegId) : (t.seg.get g).deferred = [] := by rw [(hseg g).1]
  have hseekers (g : SegId) : (t.seg.get g).seekers = [] := by rw [(hseg g).1]; rfl
  refine ⟨fun p g howned => ?_, fun p g hseeks => ?_, fun g => ?_, fun g hwaits => absurd (hdeferred g) hwaits⟩
  · rw [hsession p] at howned
    cases howned
  · rw [hseekers g] at hseeks
    cases hseeks
  · rw [hseekers g]
    exact List.nodup_nil

/-- A reset that keeps no bank ends with every invariant true, whatever was before it, if the Settings record it keeps or takes is in
range: its queue and slots are empty, nothing is held or owned, and both banks have the reset contents (R23, R185). -/
theorem enterWithContents_safe (straps : Straps) {settings : Settings} (s : State) (hset : SettingsSafe settings) :
    Safe (enterWithContents straps settings s) := by
  obtain ⟨howners, hwaiters⟩ := (enterWithContents_startsFresh straps settings s).seats
  obtain ⟨hholders, hshadow⟩ := (bankInv_iff rfl).mp (enterWithContents_bankInv straps settings s)
  exact {
    queue := emptyQueue_safe
    settings := hset
    alerts := enterService_alertsSafe _ _ _ _ s hset
    holders := hholders
    shadow := hshadow
    slots := enterService_slotsSafe _ _ _ _ _ s
    owners := howners
    waiters := hwaiters
    policy := duplicateIndex_resetBank straps.defpol
    credit := enterWithContents_creditSafe straps settings s
    banks := fun k => (PerBank.get_both (resetBank straps.defpol) k).symm ▸ resetBank_safe straps.defpol }

/-- Settles O8: the state after reset is one a power-on reset ends in, and the defaults it takes are in range. -/
theorem resetStateSafe : Obligations.ResetStateSafe := by
  unfold Obligations.ResetStateSafe
  rw [reset_eq_endPowerOn]
  exact enterWithContents_safe _ State.reset defaultSettings_safe

end Sys2Proof.Machine
end
